-- ==== Sys2Proof/Word.lean ====
section
/-! DEFINITION. The word types of the block: bytes of TXBUF (R32) and 16-bit words (R39, R40, R80). -/

namespace Sys2Proof

/-- A byte of the transmit buffer storage and of the wire (R32, R45). -/
abbrev Byte := BitVec 8

/-- A 16-bit word: an operation word (R80), a status register (R40), RESP (R39) or a countdown
counter (R30, `CNT_W = 16` of R6). -/
abbrev Word := BitVec 16

end Sys2Proof
end

