-- ==== Sys2Proof/Config.lean ====
section
/-! DEFINITION. The implementation parameters of R6: arguments of the model, fixed for a run. A state of the
machine carries the ones it was launched with (log entry 1), so a statement about every state is a statement about
every configuration. -/

namespace Sys2Proof

/-- The parameters of one debouncer instance (R6, R29). -/
structure SwitchParams where
  /-- `ACTIVE_LOW[i]`: the line is active-low (OPEN, D4). -/
  activeLow : Bool
  /-- `ACT_BOUNCE[i]`: activate settle duration, in polling ticks (OPEN, D5). -/
  actBounce : Nat
  /-- `DEACT_BOUNCE[i]`: deactivate settle duration, in polling ticks (OPEN, D5). -/
  deactBounce : Nat
  /-- `INIT_LINE[i]`: level of the raw line at reset, a launch input (OPEN, D7). -/
  initLine : Bool
deriving DecidableEq, Repr

/-- A configuration of the block (R6). -/
structure Config where
  /-- One entry per debouncer instance, instance 0 first. -/
  switches : List SwitchParams
  /-- `CAP_LOG2`, written `K` (OPEN, D14). -/
  capLog2 : Nat
  /-- `SAT_THRESHOLD` (OPEN, D15). -/
  satThreshold : Nat
  /-- `PRIORITY`: the optional scheduling restriction of R203. -/
  priority : Bool
deriving DecidableEq, Repr

namespace Config

/-- `N_SW`, the number of debouncer instances (R6). -/
def nSw (c : Config) : Nat := c.switches.length

/-- `CAP = 2^K`, the capacity of the transmit buffer in bytes (R6). -/
def cap (c : Config) : Nat := 2 ^ c.capLog2

/-- The configuration `State.reset` is launched with. `N_SW = 2` and `PRIORITY = OFF` are R6's own
values. DESIGN CHOICE (unsafe, log entry 1): the spec leaves the other parameters OPEN; the values here
are those of its examples (settle duration 10 of S2, `K = 3` and threshold 4 of program P3, lines
active-high and Low at reset as in program P1). -/
def launch : Config where
  switches := [⟨false, 10, 10, false⟩, ⟨false, 10, 10, false⟩]
  capLog2 := 3
  satThreshold := 4
  priority := false

end Config

/-- `SAMPLE_MASK` of R6, informational: the mask the out-of-scope Sample Pipeline applies to a sample
before it enqueues it (R5). No operation of the block reads it. -/
def sampleMask : Word := 0x3FFF#16

/-- `POLL_PERIOD` of R6 in milliseconds, informational: no rule depends on time (R247). -/
def pollPeriodMs : Nat := 1

end Sys2Proof
end

