-- ==== Sys2Proof/Syntax.lean ====
section
/-! DEFINITION. The operations of the block, one constructor per row of the opcode map (R84), and the two ports
an operation word can come from (R83, R85). -/

namespace Sys2Proof

/-- Where an operation word comes from (R85): the producer's command port, or the naming of a step the
environment, the poll timer, the edge detector or the serial peripheral raises. -/
inductive Port where
  | cmd
  | evt
deriving DecidableEq, Repr

/-- The nine operations of R84. An instance operand is the 4-bit `IDX` field and a register number the
8-bit `DATA` field, both unsigned and taken as they are (R81, R82). -/
inductive Instr where
  /-- `NOP` (R180). -/
  | nop
  /-- `ENQB b`: append byte `b` at the enqueue index (R140). -/
  | enqb (b : Byte)
  /-- `STSEND`: arm transmission and compute saturation (R142). -/
  | stsend
  /-- `RDLVL i`: read instance `i`'s validated level (R108). -/
  | rdlvl (i : BitVec 4)
  /-- `RDREG r`: read status register `r` (R181). -/
  | rdreg (r : BitVec 8)
  /-- `INPUT i, v`: instance `i`'s raw line takes level `v` (R105). -/
  | input (i : BitVec 4) (v : Bool)
  /-- `EDGE i`: the edge service of instance `i` (R106). -/
  | edge (i : BitVec 4)
  /-- `TICK`: one expiry of the shared polling timer (R107). -/
  | tick
  /-- `TXDONE`: the transmit-complete consumer (R150). -/
  | txdone
deriving DecidableEq, Repr

/-- The class of an operation (R83): the port its word is accepted on. -/
def Instr.port : Instr → Port
  | .nop => .cmd
  | .enqb _ => .cmd
  | .stsend => .cmd
  | .rdlvl _ => .cmd
  | .rdreg _ => .cmd
  | .input _ _ => .evt
  | .edge _ => .evt
  | .tick => .evt
  | .txdone => .evt

/-- The agents of R210. -/
inductive Agent where
  /-- The block's client, on the command port; more than one may share it. -/
  | producer
  /-- The pushbuttons. -/
  | line
  /-- The edge service of an instance. -/
  | edgeService (i : BitVec 4)
  /-- The shared polling timer. -/
  | pollTimer
  /-- The serial peripheral. -/
  | serial
deriving DecidableEq, Repr

/-- The agent whose step an operation is (R210). -/
def Instr.agent : Instr → Agent
  | .nop => .producer
  | .enqb _ => .producer
  | .stsend => .producer
  | .rdlvl _ => .producer
  | .rdreg _ => .producer
  | .input _ _ => .line
  | .edge i => .edgeService i
  | .tick => .pollTimer
  | .txdone => .serial

end Sys2Proof
end

