-- ==== Sys2Proof/WellFormed.lean ====
section
/-! DEFINITION. Which operands an operation may have in a block of `nSw` instances (R82, R84, R85), and which
configurations are well formed (R7). -/

namespace Sys2Proof

/-- `assigned(r)` of R85: the register numbers that R40 lists in a block of `nSw` instances. -/
def assignedReg (nSw : Nat) (r : BitVec 8) : Bool :=
  [0x00, 0x01, 0x02, 0x03, 0x04, 0x05, 0x08].contains r.toNat
    || (decide (0x10 ≤ r.toNat) && decide (r.toNat < 0x10 + 4 * nSw))

/-- An operation whose operands are in range in a block of `nSw` instances: an instance number names an
instance, a register number is assigned (the constraints column of R84). -/
def Instr.wf (nSw : Nat) : Instr → Bool
  | .nop => true
  | .enqb _ => true
  | .stsend => true
  | .rdlvl i => decide (i.toNat < nSw)
  | .rdreg r => assignedReg nSw r
  | .input i _ => decide (i.toNat < nSw)
  | .edge i => decide (i.toNat < nSw)
  | .tick => true
  | .txdone => true

/-- R7's bounds on one instance's parameters. -/
def SwitchParams.wf (p : SwitchParams) : Bool :=
  decide (p.actBounce ≤ 32767) && decide (p.deactBounce ≤ 32767)

/-- R7: a configuration is well formed only if `N_SW`, the settle durations, `K` and `SAT_THRESHOLD` are
within these bounds. -/
def Config.wf (c : Config) : Bool :=
  decide (1 ≤ c.nSw) && decide (c.nSw ≤ 16) && c.switches.all SwitchParams.wf
    && decide (1 ≤ c.capLog2) && decide (c.capLog2 ≤ 15) && decide (c.satThreshold ≤ c.cap - 1)

end Sys2Proof
end

