-- ==== Sys2Proof/Decode.lean ====
section
/-! DEFINITION. The decoder of R85, total on every 16-bit word, and the encoder of R89. A word that decodes to
nothing is a reserved word (R86); its behaviour is R183's. -/

namespace Sys2Proof

/-- The fields of an operation word (R81): `OPC = w[15:12]`, `IDX = w[11:8]`, `DATA = w[7:0]`. -/
def opcOf (w : Word) : BitVec 4 := w.extractLsb' 12 4

/-- `IDX = w[11:8]` (R81). -/
def idxOf (w : Word) : BitVec 4 := w.extractLsb' 8 4

/-- `DATA = w[7:0]` (R81). -/
def dataOf (w : Word) : BitVec 8 := w.extractLsb' 0 8

/-- One row of the map: the operation if its constraint holds, RESERVED otherwise (R85). -/
def decodeRow (ok : Bool) (i : Instr) : Option Instr := if ok then some i else none

/-- The rows of the command port, `OPC` 0x0 to 0x4 (R83, R85). -/
def decodeCmd (nSw : Nat) (w : Word) : Option Instr :=
  match (opcOf w).toNat with
  | 0x0 => decodeRow (idxOf w == 0 && dataOf w == 0) .nop
  | 0x1 => decodeRow (idxOf w == 0) (.enqb (dataOf w))
  | 0x2 => decodeRow (idxOf w == 0 && dataOf w == 0) .stsend
  | 0x3 => decodeRow (dataOf w == 0 && decide ((idxOf w).toNat < nSw)) (.rdlvl (idxOf w))
  | 0x4 => decodeRow (idxOf w == 0 && assignedReg nSw (dataOf w)) (.rdreg (dataOf w))
  | _ => none

/-- The rows of event words, `OPC` 0x8 to 0xB (R83, R85). -/
def decodeEvt (nSw : Nat) (w : Word) : Option Instr :=
  match (opcOf w).toNat with
  | 0x8 => decodeRow ((dataOf w).extractLsb' 1 7 == 0 && decide ((idxOf w).toNat < nSw))
      (.input (idxOf w) ((dataOf w).getLsbD 0))
  | 0x9 => decodeRow (dataOf w == 0 && decide ((idxOf w).toNat < nSw)) (.edge (idxOf w))
  | 0xA => decodeRow (idxOf w == 0 && dataOf w == 0) .tick
  | 0xB => decodeRow (idxOf w == 0 && dataOf w == 0) .txdone
  | _ => none

/-- R85's `decode(w, port)` in a block of `nSw` instances; `none` is RESERVED. -/
def decode (nSw : Nat) (port : Port) (w : Word) : Option Instr :=
  match port with
  | .cmd => decodeCmd nSw w
  | .evt => decodeEvt nSw w

/-- An operation word from its three fields (R81). -/
def mkWord (opc : BitVec 4) (idx : BitVec 4) (data : BitVec 8) : Word := opc ++ idx ++ data

/-- The word of an operation (R84, R89). -/
def encode : Instr → Word
  | .nop => mkWord 0x0 0 0
  | .enqb b => mkWord 0x1 0 b
  | .stsend => mkWord 0x2 0 0
  | .rdlvl i => mkWord 0x3 i 0
  | .rdreg r => mkWord 0x4 0 r
  | .input i v => mkWord 0x8 i (BitVec.zeroExtend 8 (BitVec.ofBool v))
  | .edge i => mkWord 0x9 i 0
  | .tick => mkWord 0xA 0 0
  | .txdone => mkWord 0xB 0 0

/-- The port a word belongs on, by its class (R83): `OPC` 0x8 and above are event words. A word alone
does not say which port it was presented on; the table's numbering has only the word (log entry 6). -/
def portOfWord (w : Word) : Port := if w.getLsbD 15 then .evt else .cmd

/-- The 16-bit word of a table row given as the low `nbits` bits of `w`; `none` where those bits do not
fit one operation word (R80: every operation word is exactly 16 bits). -/
def tableWord (nbits w : Nat) : Option Word :=
  if w % 2 ^ nbits < 2 ^ 16 then some (BitVec.ofNat 16 (w % 2 ^ nbits)) else none

/-- The operation the decoder reads from a table row's bits, on the port of the word's class, in a block
of R6's `N_SW = 2` instances. -/
def decodeTableWord (nbits w : Nat) : Option Instr :=
  match tableWord nbits w with
  | some v => decode Config.launch.nSw (portOfWord v) v
  | none => none

end Sys2Proof
end

