-- ==== Sys2Proof/Machine/State.lean ====
section
/-! DEFINITION. The complete state of the block (R22), the configuration it was launched with (R6), the operation
words its agents are still to present (R21, R210), and the reset state (R230). -/

namespace Sys2Proof.Machine

/-- The transmit buffer storage `TXBUF` (R32, R60) as the list of its nonzero bytes, addresses strictly
rising. An unlisted index reads 0x00, the value the spec gives every byte at reset (R32, R230). -/
abbrev Memory := List Host.Cell

/-- The four states of a debouncer (R23). -/
inductive Fsm where
  /-- EH, the initial state: waiting for the level to go High. -/
  | expectHigh
  /-- VH: counting down a High level. -/
  | validateHigh
  /-- EL: waiting for the level to go Low. -/
  | expectLow
  /-- VL: counting down a Low level. -/
  | validateLow
deriving DecidableEq, Repr

/-- The output events of R45. -/
inductive Event where
  /-- `ACT(i)`: instance `i`'s activate callback. -/
  | act (i : Nat)
  /-- `DEACT(i)`: instance `i`'s deactivate callback. -/
  | deact (i : Nat)
  /-- `TXBYTE(b)`: byte `b` handed to the serial peripheral. -/
  | txbyte (b : Byte)
deriving DecidableEq, Repr

/-- One debouncer instance (R23 to R31): its parameters, fixed for a run, and its five state elements. -/
structure Switch where
  /-- The instance's parameters (R6, R29). No operation writes them (R41). -/
  par : SwitchParams
  /-- `SW_STATE[i]` (R23). -/
  state : Fsm
  /-- `SW_LINE[i]`, the raw line before polarity correction (R24). -/
  line : Bool
  /-- `SW_OUT[i]`, the last validated level (R26). -/
  out : Bool
  /-- `EDGE_PEND[i]` (R27). -/
  edgePend : Bool
  /-- `SW_CNT[i]`, 16-bit two's-complement (R30). -/
  cnt : Word
deriving DecidableEq, Repr

/-- An operation word as an agent presents it: the port and the word (R83, R85). -/
structure Presented where
  port : Port
  word : Word
deriving DecidableEq, Repr

/-- The state of the block. -/
structure State where
  /-- The `N_SW` instances, instance 0 first; `N_SW` is the length (R6, R22, R44). -/
  switches : List Switch
  /-- `POLL_EN`, the enable of the shared polling timer (R28). -/
  pollEn : Bool
  /-- `TXBUF` (R32). -/
  txbuf : Memory
  /-- `EQ`, the enqueue index (R33). -/
  eqIdx : Nat
  /-- `SD`, the send index (R34). -/
  sdIdx : Nat
  /-- `TXIE`, the transmit-interrupt enable (R36). -/
  txie : Bool
  /-- `SENDING` (R37). -/
  sending : Bool
  /-- `SAT`, the "buffer nearly full" signal (R38). -/
  sat : Bool
  /-- `RESP`, the response register (R39). -/
  resp : Word
  /-- `EVT_LOG`, oldest event first (R45). -/
  evtLog : List Event
  /-- `K = CAP_LOG2` of the configuration (R6); no operation writes it. -/
  capLog2 : Nat
  /-- `SAT_THRESHOLD` of the configuration (R6); no operation writes it. -/
  satThreshold : Nat
  /-- `PRIORITY` of the configuration (R6, R203); no operation writes it. -/
  priority : Bool
  /-- The operation words the agents are still to present, in the order they do (R21, R69). This is the
  model's own field, not state of the block: it says which step is tried next (log entry 3). -/
  trace : List Presented
deriving DecidableEq, Repr

/-- The block has no fault: "No operation has an exception outcome" (R200), and nothing is unmapped or
misaligned (R64). So there is no reason to name, and no step can end in a fault. -/
inductive Fault where
deriving DecidableEq, Repr

/-- Why the model does not answer a next state. -/
inductive Refusal where
  /-- An instruction that has no meaning yet, rejected in its arm of `exec`. Safe: the model stops. No arm
  raises it. -/
  | notModelled (mnemonic : String)
  /-- `step` raises it where the configuration is not well formed: "A model refuses any other
  configuration" (R7). Safe: the model stops. -/
  | configNotWellFormed
deriving DecidableEq, Repr

/-- An instance in the reset state (R230): ExpectHigh, output Low, no edge pending, counter 0, the line at
`INIT_LINE[i]` with no edge recorded (R24). -/
def Switch.reset (p : SwitchParams) : Switch where
  par := p
  state := .expectHigh
  line := p.initLine
  out := false
  edgePend := false
  cnt := 0#16

/-- The reset state of a block with configuration `c` (R230), with no word presented. -/
def State.resetOf (c : Config) : State where
  switches := c.switches.map Switch.reset
  pollEn := false
  txbuf := []
  eqIdx := 0
  sdIdx := 0
  txie := false
  sending := false
  sat := false
  resp := 0#16
  evtLog := []
  capLog2 := c.capLog2
  satThreshold := c.satThreshold
  priority := c.priority
  trace := []

/-- The machine right after reset, in the launch configuration of log entry 1. -/
def State.reset : State := State.resetOf Config.launch

end Sys2Proof.Machine
end

