-- ==== Sys2Proof/Machine/Ops.lean ====
section
/-! DEFINITION. The named operations over the state: the configuration read back, the storage TXBUF, the updates the
meanings are written with, and what the step adds around an operation (R11, R202, R203). There is no operation
that takes an exception and none that returns from one: the block has neither (R200, R207, R208). -/

namespace Sys2Proof.Machine

/-! ### Configuration -/

/-- The configuration the block was launched with (R6). -/
def State.config (s : State) : Config where
  switches := s.switches.map Switch.par
  capLog2 := s.capLog2
  satThreshold := s.satThreshold
  priority := s.priority

/-- `N_SW`. -/
def State.nSw (s : State) : Nat := s.switches.length

/-- `CAP = 2^K`. -/
def State.cap (s : State) : Nat := 2 ^ s.capLog2

/-! ### The storage TXBUF (R60) -/

/-- `MemRead(TXBUF, a, 1)`: an unlisted index reads 0x00, its reset value (R32). -/
def Memory.read : Memory → Nat → Byte
  | [], _ => 0#8
  | c :: m, a => if c.1 = a then c.2 else Memory.read m a

/-- `MemWrite(TXBUF, a, 1, v)`, keeping the canonical form: addresses rise and no listed byte is 0x00. -/
def Memory.write : Memory → Nat → Byte → Memory
  | [], a, v => if v = 0#8 then [] else [(a, v)]
  | c :: m, a, v =>
    if c.1 < a then c :: Memory.write m a v
    else if c.1 = a then (if v = 0#8 then m else (a, v) :: m)
    else if v = 0#8 then c :: m
    else (a, v) :: c :: m

/-- Every address of the list is above `lo`, addresses rise strictly, and no byte is 0x00. -/
def Memory.wfAbove : Option Nat → Memory → Bool
  | _, [] => true
  | lo, c :: m =>
    (match lo with | none => true | some l => decide (l < c.1)) && c.2 != 0#8
      && Memory.wfAbove (some c.1) m

/-- The canonical form of the storage: equal storages are equal lists. -/
def Memory.wf (m : Memory) : Bool := Memory.wfAbove none m

/-! ### Updates -/

/-- Writes instance `i`. -/
def State.setSwitch (s : State) (i : Nat) (w : Switch) : State :=
  { s with switches := s.switches.set i w }

/-- Writes every instance. -/
def State.setSwitches (s : State) (ws : List Switch) : State := { s with switches := ws }

/-- `emit`, for the events of one step in order (R10, R45). -/
def State.emit (s : State) (es : List Event) : State := { s with evtLog := s.evtLog ++ es }

/-- Writes `POLL_EN`. -/
def State.setPollEn (s : State) (b : Bool) : State := { s with pollEn := b }

/-- Writes `RESP` (R39). -/
def State.setResp (s : State) (v : Word) : State := { s with resp := v }

/-- Writes `TXIE` and `SENDING`, which the block always writes together (R142, R150). -/
def State.setSending (s : State) (b : Bool) : State := { s with txie := b, sending := b }

/-- Writes `SAT` (R38). -/
def State.setSat (s : State) (b : Bool) : State := { s with sat := b }

/-- An index of the storage advanced by one: `(x + 1) mod CAP` (R33, R34). -/
def State.advance (s : State) (x : Nat) : Nat := (x + 1) % s.cap

/-- The storage index an index register addresses: "an index reduced `mod CAP`" (R64). -/
def State.slot (s : State) (x : Nat) : Nat := x % s.cap

/-- Stores a byte at `EQ` and advances `EQ` (R140). -/
def State.storeByte (s : State) (b : Byte) : State :=
  { s with txbuf := s.txbuf.write (s.slot s.eqIdx) b, eqIdx := s.advance s.eqIdx }

/-- The byte at `SD` (R150). -/
def State.byteAtSd (s : State) : Byte := s.txbuf.read (s.slot s.sdIdx)

/-- Advances `SD` (R150). -/
def State.advanceSd (s : State) : State := { s with sdIdx := s.advance s.sdIdx }

/-! ### What the step adds around an operation -/

/-- Presents a word before the ones already waiting. -/
def State.present (s : State) (p : Presented) : State := { s with trace := p :: s.trace }

/-- The next word the agents present, and the state with that word taken off. -/
def State.takeWord (s : State) : Option (Presented × State) :=
  match s.trace with
  | [] => none
  | p :: rest => some (p, { s with trace := rest })

/-- `EDGE_PEND[i] = 1`. -/
def State.edgePending (s : State) (i : Nat) : Bool :=
  match s.switches[i]? with
  | some w => w.edgePend
  | none => false

/-- The enabled condition of each operation (R11, R202): command words and INPUT always, EDGE while its
edge is pending, TICK while the timer is on, TXDONE while the transmit interrupt is. -/
def State.enabled (s : State) : Instr → Bool
  | .nop => true
  | .enqb _ => true
  | .stsend => true
  | .rdlvl _ => true
  | .rdreg _ => true
  | .input _ _ => true
  | .edge i => s.edgePending i.toNat
  | .tick => s.pollEn
  | .txdone => s.txie

/-- Some EDGE step is enabled. -/
def State.anyEdge (s : State) : Bool := s.switches.any Switch.edgePend

/-- What `PRIORITY` admits (R203). With it ON, a TICK may not be taken while an EDGE or a TXDONE is enabled
and an EDGE may not be taken while a TXDONE is enabled; with it OFF, every order is admitted. -/
def State.admits (s : State) : Instr → Bool
  | .tick => !s.priority || !(s.anyEdge || s.txie)
  | .edge _ => !s.priority || !s.txie
  | .nop => true
  | .enqb _ => true
  | .stsend => true
  | .rdlvl _ => true
  | .rdreg _ => true
  | .input _ _ => true
  | .txdone => true

/-- The enable bit of an operation raised: what has to hold for its step to be taken at all (R11). It is
how a single event word can be run from reset (log entry 6); no step calls it. -/
def State.raiseEnable (s : State) : Instr → State
  | .nop => s
  | .enqb _ => s
  | .stsend => s
  | .rdlvl _ => s
  | .rdreg _ => s
  | .input _ _ => s
  | .edge i =>
    match s.switches[i.toNat]? with
    | some w => s.setSwitch i.toNat { w with edgePend := true }
    | none => s
  | .tick => s.setPollEn true
  | .txdone => { s with txie := true }

/-- A table row's word presented next, its enable bit raised (log entry 6). -/
def State.presentTableWord (s : State) (nbits w : Nat) : State :=
  match tableWord nbits w with
  | none => s
  | some v =>
    match decode s.nSw (portOfWord v) v with
    | some i => (s.raiseEnable i).present ⟨portOfWord v, v⟩
    | none => s.present ⟨portOfWord v, v⟩

end Sys2Proof.Machine
end

