-- ==== Sys2Proof/Machine/Flags.lean ====
section
/-! DEFINITION. The values the block computes from its state: the polarity-corrected level (R25), the state encoding
(R23), the poll-enable function (R104), the count of unsent bytes (R35) and the saturation comparison (R143). -/

namespace Sys2Proof.Machine

/-- The encoding of `SW_STATE` (R23): bit 0 is "validating", bit 1 is "output High". -/
def Fsm.bits : Fsm → BitVec 2
  | .expectHigh => 0b00#2
  | .validateHigh => 0b01#2
  | .expectLow => 0b10#2
  | .validateLow => 0b11#2

/-- The state is one of VH and VL. -/
def Fsm.validating : Fsm → Bool
  | .expectHigh => false
  | .validateHigh => true
  | .expectLow => false
  | .validateLow => true

/-- `LVL(i) = SW_LINE[i] XOR ACTIVE_LOW[i]` (R25): "active" is always High (R12). -/
def Switch.level (w : Switch) : Bool := w.line.xor w.par.activeLow

/-- The instance is validating. -/
def Switch.validating (w : Switch) : Bool := w.state.validating

/-- The counter after one tick: decremented by 1 as a 16-bit number (R100, R102). -/
def decrement (c : Word) : Word := c - 1#16

/-- The compare `SW_CNT[i] <= 0`, signed (R30, R100). -/
def expired (c : Word) : Bool := decide (c.toInt ≤ 0)

/-- The poll-enable function of R104: some instance is in a Validate state. -/
def pollNeeded (ws : List Switch) : Bool := ws.any Switch.validating

/-- Writes `POLL_EN` by the poll-enable function, at the end of EDGE and TICK (R104). -/
def State.refreshPoll (s : State) : State := s.setPollEn (pollNeeded s.switches)

/-- `COUNT = (EQ - SD) mod CAP`, the non-negative remainder (R9, R35). -/
def State.count (s : State) : Nat := (((s.eqIdx : Int) - (s.sdIdx : Int)) % (s.cap : Int)).toNat

/-- The value STSEND gives SAT: strictly above the threshold (R143). -/
def State.saturated (s : State) : Bool := decide (s.satThreshold < s.count)

end Sys2Proof.Machine
end

