-- ==== Sys2Proof/Machine/Operands.lean ====
section
/-! DEFINITION. What the operands of an operation name: the levels an instance operand reads and the status
registers a register operand reads (R23, R25, R40, R181). -/

namespace Sys2Proof.Machine

/-- A one-bit value placed in RESP, zero-extended to 16 bits (R82, R108). -/
def zext1 (b : Bool) : Word := BitVec.zeroExtend 16 (BitVec.ofBool b)

/-- `REG(0x10+4i)` to `REG(0x13+4i)`: SWi_STAT, SWi_CNT, SWi_ACT and SWi_DEACT (R40, R181). -/
def Switch.reg (w : Switch) : Nat → Word
  | 0 => BitVec.zeroExtend 16 (BitVec.ofBool w.par.activeLow ++ BitVec.ofBool w.line
      ++ BitVec.ofBool w.edgePend ++ BitVec.ofBool w.level ++ BitVec.ofBool w.out ++ w.state.bits)
  | 1 => w.cnt
  | 2 => BitVec.ofNat 16 w.par.actBounce
  | _ => BitVec.ofNat 16 w.par.deactBounce

/-- `REG(0x00)`, TXSTAT: `zext_16({SAT, SENDING, TXIE})` (R181). -/
def State.txstat (s : State) : Word :=
  BitVec.zeroExtend 16 (BitVec.ofBool s.sat ++ BitVec.ofBool s.sending ++ BitVec.ofBool s.txie)

/-- `REG(0x08)`, DBSTAT: `{0b000, N_SW[4:0], 0b0000000, POLL_EN}` (R181). -/
def State.dbstat (s : State) : Word :=
  0#3 ++ BitVec.ofNat 5 s.nSw ++ 0#7 ++ BitVec.ofBool s.pollEn

/-- `REG(r)` of R181; `none` for an unassigned register number (R182). -/
def State.reg (s : State) (r : BitVec 8) : Option Word :=
  match r.toNat with
  | 0x00 => some s.txstat
  | 0x01 => some (BitVec.ofNat 16 s.eqIdx)
  | 0x02 => some (BitVec.ofNat 16 s.sdIdx)
  | 0x03 => some (BitVec.ofNat 16 s.count)
  | 0x04 => some (BitVec.ofNat 16 s.capLog2)
  | 0x05 => some (BitVec.ofNat 16 s.satThreshold)
  | 0x08 => some s.dbstat
  | n =>
    if 0x10 ≤ n then
      match s.switches[(n - 0x10) / 4]? with
      | some w => some (w.reg ((n - 0x10) % 4))
      | none => none
    else none

end Sys2Proof.Machine
end

