-- ==== Sys2Proof/Machine/Control.lean ====
section
/-! DEFINITION. The control operations: the meanings of NOP (R180) and RDREG (R181), and what a reserved word does
(R183). -/

namespace Sys2Proof.Machine

/-- NOP (R180): every state element keeps its value. -/
def execNop (s : State) : Host.Outcome State Fault Refusal := .next s

/-- RDREG `r` (R181): `RESP` takes the status register. An unassigned register number is a reserved operand:
`RESP` is not written (R182, R183). -/
def execRdreg (r : BitVec 8) (s : State) : Host.Outcome State Fault Refusal :=
  match s.reg r with
  | some v => .next (s.setResp v)
  | none => .next s

/-- A reserved word changes no state and is not a fault (R86, R183). -/
def execReserved (s : State) : Host.Outcome State Fault Refusal := .next s

/-- An event word that is enabled by no rule now, or held back by `PRIORITY`, is not taken: nothing changes
(R11, R203; log entries 4 and 5). -/
def notTaken (s : State) : Host.Outcome State Fault Refusal := .next s

end Sys2Proof.Machine
end

