-- ==== Sys2Proof/Machine/Debounce.lean ====
section
/-! DEFINITION. The debounce unit: the transition function DBSTEP (R100) and the meanings of INPUT (R105), EDGE
(R106), TICK (R107) and RDLVL (R108). -/

namespace Sys2Proof.Machine

/-- `DBSTEP(i, l)` (R100): one row of the state table applied to instance `i`, with the events it emits
(R101). The counter is decremented as a 16-bit number and compared signed, after the decrement (R102). -/
def dbstep (i : Nat) (w : Switch) (l : Bool) : Switch × List Event :=
  match w.state with
  | .expectHigh =>
    if l then ({ w with cnt := BitVec.ofNat 16 w.par.actBounce, state := .validateHigh }, [])
    else (w, [])
  | .validateHigh =>
    if l then
      if expired (decrement w.cnt) then
        ({ w with cnt := decrement w.cnt, state := .expectLow, out := true }, [.act i])
      else ({ w with cnt := decrement w.cnt }, [])
    else ({ w with state := .expectHigh }, [])
  | .expectLow =>
    if l then (w, [])
    else ({ w with cnt := BitVec.ofNat 16 w.par.deactBounce, state := .validateLow }, [])
  | .validateLow =>
    if l then ({ w with state := .expectLow }, [])
    else
      if expired (decrement w.cnt) then
        ({ w with cnt := decrement w.cnt, state := .expectHigh, out := false }, [.deact i])
      else ({ w with cnt := decrement w.cnt }, [])

/-- What the edge service does to its instance (R106): the pending bit is cleared and, in an Expect state,
the row for the level read now applies. -/
def edgeSwitch (i : Nat) (w : Switch) : Switch × List Event :=
  if w.validating then ({ w with edgePend := false }, [])
  else dbstep i { w with edgePend := false } w.level

/-- What a tick does to one instance (R107): a Validate row for the level read now; an instance in an Expect
state is not touched. -/
def tickSwitch (i : Nat) (w : Switch) : Switch × List Event :=
  if w.validating then dbstep i w w.level else (w, [])

/-- A tick over the instances from index `i` on, ascending (R107, R109), with the events in that order. -/
def tickAll : Nat → List Switch → List Switch × List Event
  | _, [] => ([], [])
  | i, w :: ws =>
    ((tickSwitch i w).1 :: (tickAll (i + 1) ws).1, (tickSwitch i w).2 ++ (tickAll (i + 1) ws).2)

/-- The raw line of an instance takes level `v` (R105): a change is recorded as a pending edge. -/
def inputSwitch (w : Switch) (v : Bool) : Switch :=
  if v = w.line then w else { w with line := v, edgePend := true }

/-- INPUT `i, v` (R105). An `i` that names no instance is a reserved operand: nothing changes (R86, R183). -/
def execInput (i : BitVec 4) (v : Bool) (s : State) : Host.Outcome State Fault Refusal :=
  match s.switches[i.toNat]? with
  | some w => .next (s.setSwitch i.toNat (inputSwitch w v))
  | none => .next s

/-- The effect of the edge service on the block (R106): the instance, its events, then `POLL_EN`. -/
def State.serviceEdge (s : State) (i : Nat) (w : Switch) : State :=
  ((s.setSwitch i (edgeSwitch i w).1).emit (edgeSwitch i w).2).refreshPoll

/-- EDGE `i` (R106), enabled while `EDGE_PEND[i] = 1`. Where it is not enabled, or `i` names no instance, the
step is not taken and nothing changes (R11, R183, vector E-1; log entry 4). -/
def execEdge (i : BitVec 4) (s : State) : Host.Outcome State Fault Refusal :=
  match s.switches[i.toNat]? with
  | some w => if w.edgePend then .next (s.serviceEdge i.toNat w) else .next s
  | none => .next s

/-- The effect of a tick on the block (R107). -/
def State.tick (s : State) : State :=
  ((s.setSwitches (tickAll 0 s.switches).1).emit (tickAll 0 s.switches).2).refreshPoll

/-- TICK (R107), enabled while `POLL_EN = 1`. Where it is not enabled the step is not taken and nothing changes
(R11, vector T-1; log entry 4). -/
def execTick (s : State) : Host.Outcome State Fault Refusal :=
  if s.pollEn then .next s.tick else .next s

/-- RDLVL `i` (R108): `RESP` takes the instance's validated level. An `i` that names no instance is a reserved
operand: `RESP` keeps its value (R86, R183). -/
def execRdlvl (i : BitVec 4) (s : State) : Host.Outcome State Fault Refusal :=
  match s.switches[i.toNat]? with
  | some w => .next (s.setResp (zext1 w.out))
  | none => .next s

end Sys2Proof.Machine
end

