-- ==== Sys2Proof/Machine/Transmit.lean ====
section
/-! DEFINITION. The transmit unit: the meanings of ENQB (R140), STSEND (R142) and TXDONE (R150). -/

namespace Sys2Proof.Machine

/-- ENQB `b` (R140): the byte is stored at `EQ` and `EQ` advances. A full buffer is not detected (R141). -/
def execEnqb (b : Byte) (s : State) : Host.Outcome State Fault Refusal :=
  .next (s.storeByte b)

/-- STSEND (R142): `TXIE` and `SENDING` are set and `SAT` is computed (R143). -/
def execStsend (s : State) : Host.Outcome State Fault Refusal :=
  .next ((s.setSending true).setSat s.saturated)

/-- The effect of a transmit-complete (R150): the drained buffer turns transmission off, otherwise the byte at
`SD` is handed to the serial peripheral and `SD` advances. -/
def State.transmitNext (s : State) : State :=
  if s.sdIdx = s.eqIdx then s.setSending false
  else (s.emit [.txbyte s.byteAtSd]).advanceSd

/-- TXDONE (R150), enabled while `TXIE = 1`. Where it is not enabled the step is not taken and nothing changes
(R11, vector X-8; log entry 4). -/
def execTxdone (s : State) : Host.Outcome State Fault Refusal :=
  if s.txie then .next s.transmitNext else .next s

end Sys2Proof.Machine
end

