-- ==== Sys2Proof/Machine/Dispatch.lean ====
section
/-! DEFINITION. One arm per operation. -/

namespace Sys2Proof.Machine

def exec (i : Instr) (s : State) : Host.Outcome State Fault Refusal :=
  match i with
  | .nop => Sys2Proof.Machine.execNop s
  | .enqb b => Sys2Proof.Machine.execEnqb b s
  | .stsend => Sys2Proof.Machine.execStsend s
  | .rdlvl n => Sys2Proof.Machine.execRdlvl n s
  | .rdreg r => Sys2Proof.Machine.execRdreg r s
  | .input n v => Sys2Proof.Machine.execInput n v s
  | .edge n => Sys2Proof.Machine.execEdge n s
  | .tick => Sys2Proof.Machine.execTick s
  | .txdone => Sys2Proof.Machine.execTxdone s

end Sys2Proof.Machine
end

