-- ==== Sys2Proof/Machine/Step.lean ====
section
/-! DEFINITION. One step of the block: the next word an agent presents is decoded and its operation executed. -/

namespace Sys2Proof.Machine

/-- One step (R11, R69). The configuration must be well formed (R7). The next word of the trace is taken and
decoded on its port (R85): a reserved word changes nothing (R183), an operation held back by `PRIORITY` is not
taken (R203), any other is executed. Where no agent presents a word the block stays as it is (log entry 7). -/
def step (s : State) : Host.Outcome State Fault Refusal :=
  if s.config.wf then
    match s.takeWord with
    | none => .next s
    | some (p, s') =>
      match decode s'.nSw p.port p.word with
      | none => execReserved s'
      | some i => if s'.admits i then exec i s' else notTaken s'
  else .refused .configNotWellFormed

/-- The operation word of a table row presented next, so that the very next step runs it (log entry 6). -/
def State.withFetchWord (s : State) (nbits w : Nat) : State := s.presentTableWord nbits w

end Sys2Proof.Machine
end

