-- ==== Sys2Proof/Machine/Pseudo.lean ====
section
/-! DEFINITION. The pseudo-operations: names for fixed sequences of command words (R91). A pseudo-operation is not a
step and is not atomic (R164); the block only ever sees the operations of its expansion. -/

namespace Sys2Proof.Machine

/-- `ENQBYTES b0, ..., b(n-1)`: one ENQB a byte, in order, then STSEND (R163). -/
def enqBytes (bs : List Byte) : List Instr := bs.map Instr.enqb ++ [.stsend]

/-- `ENQ16LE v`: the low byte, the high byte, STSEND (R63, R160). -/
def enq16le (v : Word) : List Instr :=
  [.enqb (v.extractLsb' 0 8), .enqb (v.extractLsb' 8 8), .stsend]

/-- `ENQ8P16 v`: the byte, then a zero byte, then STSEND (R161). -/
def enq8p16 (v : Byte) : List Instr := [.enqb v, .enqb 0#8, .stsend]

/-- `ENQSTR`: the bytes before the terminating NUL, which is not enqueued, then STSEND (R162). -/
def enqStr (bs : List Byte) : List Instr := enqBytes (bs.takeWhile (fun b => b != 0#8))

/-- What the out-of-scope Sample Pipeline issues for a conversion result: `ENQ16LE (v & SAMPLE_MASK)` (R5). -/
def enqSample (v : Word) : List Instr := enq16le (v &&& sampleMask)

end Sys2Proof.Machine
end

