-- ==== Sys2Proof/Machine/Assembler.lean ====
section
/-! DEFINITION. The assembly language of R88 to R92: one operation or pseudo-operation a line, assembled to operation
words. A line is a list of character codes. An operand out of its range is refused, never assembled to a
reserved word (R89). -/

namespace Sys2Proof.Machine

/-- The nine mnemonics of R89 and the four of R91. -/
inductive Mnemonic where
  | nop
  | enqb
  | stsend
  | rdlvl
  | rdreg
  | input
  | edge
  | tick
  | txdone
  | enq16le
  | enq8p16
  | enqstr
  | enqbytes
deriving DecidableEq, Repr

/-- An operand as written: a number, or the bytes of a quoted string (R88). -/
inductive Operand where
  | num (n : Nat)
  | str (bs : List Byte)
deriving DecidableEq, Repr

/-- A number as an unsigned field of `w` bits, refused if it does not fit. -/
def numField (w n : Nat) : Option (BitVec w) := if n < 2 ^ w then some (BitVec.ofNat w n) else none

/-- An instance operand, `0 .. N_SW-1` (R89). -/
def instanceField (nSw n : Nat) : Option (BitVec 4) := if n < nSw then numField 4 n else none

/-- A register operand, an assigned register number (R89). -/
def registerField (nSw n : Nat) : Option (BitVec 8) :=
  match numField 8 n with
  | some r => if assignedReg nSw r then some r else none
  | none => none

/-- A line level, 0 or 1 (R89). -/
def levelField : Nat → Option Bool
  | 0 => some false
  | 1 => some true
  | _ => none

/-- The byte operands of ENQBYTES (R91). -/
def byteFields : List Operand → Option (List Byte)
  | [] => some []
  | .num n :: os =>
    match numField 8 n, byteFields os with
    | some b, some bs => some (b :: bs)
    | _, _ => none
  | .str _ :: _ => none

/-- The operations a mnemonic with its operands stands for (R89, R91); `none` where the operands are not the
ones the mnemonic takes, or one is out of range. -/
def assembleOp (nSw : Nat) : Mnemonic → List Operand → Option (List Instr)
  | .nop, [] => some [.nop]
  | .enqb, [.num b] => (numField 8 b).map (fun b => [.enqb b])
  | .stsend, [] => some [.stsend]
  | .rdlvl, [.num i] => (instanceField nSw i).map (fun i => [.rdlvl i])
  | .rdreg, [.num r] => (registerField nSw r).map (fun r => [.rdreg r])
  | .input, [.num i, .num v] =>
    match instanceField nSw i, levelField v with
    | some i, some v => some [.input i v]
    | _, _ => none
  | .edge, [.num i] => (instanceField nSw i).map (fun i => [.edge i])
  | .tick, [] => some [.tick]
  | .txdone, [] => some [.txdone]
  | .enq16le, [.num v] => (numField 16 v).map Sys2Proof.Machine.enq16le
  | .enq8p16, [.num v] => (numField 8 v).map Sys2Proof.Machine.enq8p16
  | .enqstr, [.str bs] => some (enqStr bs)
  | .enqbytes, os => (byteFields os).map enqBytes
  | _, _ => none

/-! ### Reading a line (R88) -/

/-- A character code in capitals: mnemonics are case-insensitive (R88). -/
def upperCode (c : Nat) : Nat := if 97 ≤ c ∧ c ≤ 122 then c - 32 else c

/-- The mnemonic a name stands for, the name in capitals. -/
def mnemonicOf (name : List Nat) : Option Mnemonic :=
  (List.lookup (name.map upperCode)
    [([78, 79, 80], .nop),
     ([69, 78, 81, 66], .enqb),
     ([83, 84, 83, 69, 78, 68], .stsend),
     ([82, 68, 76, 86, 76], .rdlvl),
     ([82, 68, 82, 69, 71], .rdreg),
     ([73, 78, 80, 85, 84], .input),
     ([69, 68, 71, 69], .edge),
     ([84, 73, 67, 75], .tick),
     ([84, 88, 68, 79, 78, 69], .txdone),
     ([69, 78, 81, 49, 54, 76, 69], .enq16le),
     ([69, 78, 81, 56, 80, 49, 54], .enq8p16),
     ([69, 78, 81, 83, 84, 82], .enqstr),
     ([69, 78, 81, 66, 89, 84, 69, 83], .enqbytes)])

/-- A space or a tab. -/
def isBlank (c : Nat) : Bool := c == 32 || c == 9

/-- Blanks taken off both ends. -/
def trim (cs : List Nat) : List Nat := ((cs.dropWhile isBlank).reverse.dropWhile isBlank).reverse

/-- The value of one digit, decimal or hexadecimal in either case. -/
def digitOf (c : Nat) : Option Nat :=
  if 48 ≤ c ∧ c ≤ 57 then some (c - 48)
  else if 65 ≤ upperCode c ∧ upperCode c ≤ 70 then some (upperCode c - 55)
  else none

/-- Digits in a base, most significant first, added to the value read so far. -/
def digitsFrom (base acc : Nat) : List Nat → Option Nat
  | [] => some acc
  | c :: cs =>
    match digitOf c with
    | some d => if d < base then digitsFrom base (acc * base + d) cs else none
    | none => none

/-- A number: decimal, or hexadecimal after `0x` (R88). -/
def numberOf : List Nat → Option Nat
  | [] => none
  | 48 :: 120 :: c :: cs => digitsFrom 16 0 (c :: cs)
  | c :: cs => digitsFrom 10 0 (c :: cs)

/-- The ASCII bytes of a string's characters; a character outside ASCII is refused. -/
def asciiBytes : List Nat → Option (List Byte)
  | [] => some []
  | c :: cs =>
    if c < 128 then (asciiBytes cs).map (fun bs => BitVec.ofNat 8 c :: bs) else none

/-- A string operand: the characters between double quotes (code 34), with none inside (R88). -/
def stringOf (cs : List Nat) : Option (List Byte) :=
  match cs, cs.reverse with
  | 34 :: _ :: _, 34 :: _ =>
    if (cs.drop 1).dropLast.contains 34 then none else asciiBytes (cs.drop 1).dropLast
  | _, _ => none

/-- One operand as written. -/
def operandOf (cs : List Nat) : Option Operand :=
  match stringOf cs with
  | some bs => some (.str bs)
  | none => (numberOf cs).map Operand.num

/-- The operand texts of a line, separated by commas (code 44) that stand outside quotes. -/
def splitOperands : Bool → List Nat → List Nat → List (List Nat)
  | _, cur, [] => [cur.reverse]
  | quoted, cur, c :: cs =>
    if c = 34 then splitOperands (!quoted) (c :: cur) cs
    else if c = 44 ∧ quoted = false then cur.reverse :: splitOperands false [] cs
    else splitOperands quoted (c :: cur) cs

/-- Every operand of a list of texts. -/
def operandsOf : List (List Nat) → Option (List Operand)
  | [] => some []
  | t :: ts =>
    match operandOf (trim t), operandsOf ts with
    | some o, some os => some (o :: os)
    | _, _ => none

/-- The operands after a mnemonic: none at all, or a list separated by commas. -/
def operandList (cs : List Nat) : Option (List Operand) :=
  match trim cs with
  | [] => some []
  | c :: cs => operandsOf (splitOperands false [] (c :: cs))

/-- One line of assembly as operations: the mnemonic, then its operands (R88). -/
def assembleOps (nSw : Nat) (line : List Nat) : Option (List Instr) :=
  match mnemonicOf ((trim line).takeWhile (fun c => !isBlank c)),
      operandList ((trim line).dropWhile (fun c => !isBlank c)) with
  | some m, some os => assembleOp nSw m os
  | _, _ => none

/-- One line of assembly as operation words (R89, R91). -/
def assemble (nSw : Nat) (line : List Nat) : Option (List Word) :=
  (assembleOps nSw line).map (fun is => is.map encode)

end Sys2Proof.Machine
end

