-- ==== Sys2Proof/Safety.lean ====
section
/-! DEFINITION. The words claims are stated in: a step that may be taken and a run of them (R11, R203), the duty of a
producer (R240), the bytes on the wire and the bytes still queued (R45, R70), quiescence (R216), and the
invariant of the block (R112 with the ranges of R33 and R34). -/

namespace Sys2Proof.Machine

/-! ### Runs -/

/-- The step of operation `i` may be taken now: its operands are in range (R84), its enabled condition holds
(R11) and the scheduling restriction admits it (R203). -/
def State.legal (s : State) (i : Instr) : Bool := i.wf s.nSw && s.enabled i && s.admits i

/-- Taking operation `i` now overflows the buffer: ENQB while `COUNT = CAP - 1` (R141, R240). -/
def State.overflows (s : State) : Instr → Bool
  | .enqb _ => s.count == s.cap - 1
  | .nop => false
  | .stsend => false
  | .rdlvl _ => false
  | .rdreg _ => false
  | .input _ _ => false
  | .edge _ => false
  | .tick => false
  | .txdone => false

/-- The operations executed one after the other, each in the state the one before it left (R69). -/
def execAll : List Instr → State → Host.Outcome State Fault Refusal
  | [], s => .next s
  | i :: is, s =>
    match exec i s with
    | .next s' => execAll is s'
    | .fault r => .fault r
    | .refused r => .refused r

/-- Every operation of the list satisfies `ok` in the state it is executed in. -/
def Along (ok : State → Instr → Prop) : List Instr → State → Prop
  | [], _ => True
  | i :: is, s => ok s i ∧ ∀ s', exec i s = .next s' → Along ok is s'

/-- Every step of the list may be taken when it is (R11, R203). -/
def LegalRun (is : List Instr) (s : State) : Prop := Along (fun s i => s.legal i = true) is s

/-- No ENQB of the list overflows the buffer (the premise of R70 and R240). -/
def NoOverflow (is : List Instr) (s : State) : Prop := Along (fun s i => s.overflows i = false) is s

/-- Every TICK of the list finds instance `n` at level `l` (R110). -/
def TicksRead (n : Nat) (l : Bool) (is : List Instr) (s : State) : Prop :=
  Along (fun s i => i = .tick → ∀ w, s.switches[n]? = some w → w.level = l) is s

/-- The bytes the ENQB words of a list append, in order. -/
def enqueued : List Instr → List Byte
  | [] => []
  | .enqb b :: is => b :: enqueued is
  | .nop :: is => enqueued is
  | .stsend :: is => enqueued is
  | .rdlvl _ :: is => enqueued is
  | .rdreg _ :: is => enqueued is
  | .input _ _ :: is => enqueued is
  | .edge _ :: is => enqueued is
  | .tick :: is => enqueued is
  | .txdone :: is => enqueued is

/-! ### The transmit unit -/

/-- The byte of a TXBYTE event. -/
def Event.byte? : Event → Option Byte
  | .txbyte b => some b
  | .act _ => none
  | .deact _ => none

/-- The wire: the subsequence of TXBYTE events (R45). -/
def State.wire (s : State) : List Byte := s.evtLog.filterMap Event.byte?

/-- The unsent bytes, the next one to be sent first: the `COUNT` bytes from index `SD` on (R35). -/
def State.queued (s : State) : List Byte :=
  (List.range s.count).map (fun k => s.txbuf.read (s.slot (s.sdIdx + k)))

/-! ### Quiescence (R216) -/

/-- No edge is pending, the polling timer is off and the transmit interrupt is off (R216). -/
def State.quiescent (s : State) : Bool := !s.anyEdge && !s.pollEn && !s.txie

/-- The steps the block or the serial peripheral raises by itself: EDGE, TICK, TXDONE (R202). -/
def serviceStep : Instr → Bool
  | .edge _ => true
  | .tick => true
  | .txdone => true
  | .nop => false
  | .enqb _ => false
  | .stsend => false
  | .rdlvl _ => false
  | .rdreg _ => false
  | .input _ _ => false

/-- An EDGE step now would arm the instance: it is in the Expect state that waits for the level read
(R106). -/
def Switch.arms (w : Switch) : Bool :=
  match w.state with
  | .expectHigh => w.level
  | .expectLow => !w.level
  | .validateHigh => false
  | .validateLow => false

/-- The settle duration the next arming of the instance seeds its counter with (R100). -/
def Switch.seed (w : Switch) : Nat :=
  match w.state with
  | .expectHigh => w.par.actBounce
  | .validateHigh => w.par.actBounce
  | .expectLow => w.par.deactBounce
  | .validateLow => w.par.deactBounce

/-- A bound on the ticks the instance still needs while its line keeps its level: `max(1, counter)` while it
validates, `max(1, seed)` when a pending edge will arm it (R110, R216). -/
def Switch.ticksLeft (w : Switch) : Nat :=
  if w.validating then max 1 w.cnt.toInt.toNat
  else if w.edgePend && w.arms then max 1 w.seed else 0

/-- A bound on the service steps that remain while no line changes and nothing is enqueued or started
(R216): pending edges, ticks, and `COUNT + 1` TXDONE steps. -/
def State.work (s : State) : Nat :=
  (s.switches.map (fun w => (if w.edgePend then 1 else 0) + w.ticksLeft)).sum
    + (if s.txie then s.count + 1 else 0)

/-! ### The invariant -/

/-- R112 (a) and (c) for one instance, and the least counter value of R102. -/
structure Switch.Inv (w : Switch) : Prop where
  /-- R112 (a): the output is High exactly in EL and VL. -/
  out_eq : w.out = w.state.bits.getLsbD 1
  /-- R102: the counter never falls below -1. -/
  cnt_ge : -1 ≤ w.cnt.toInt
  /-- R112 (c): in a Validate state the counter is between 0 and its seed. -/
  cnt_le : w.validating = true → 0 ≤ w.cnt.toInt ∧ w.cnt.toInt ≤ w.seed
  /-- R112 (c): there it is 0 only if the seed was 0. -/
  cnt_zero : w.validating = true → w.cnt.toInt = 0 → w.seed = 0

/-- The invariant of the block: what holds after reset and after every step. -/
structure Inv (s : State) : Prop where
  /-- The configuration is well formed (R7). -/
  config_wf : s.config.wf = true
  /-- `EQ` is a K-bit number (R33). -/
  eq_lt : s.eqIdx < s.cap
  /-- `SD` is a K-bit number (R34). -/
  sd_lt : s.sdIdx < s.cap
  /-- The storage keeps its canonical form. -/
  buf_wf : s.txbuf.wf = true
  /-- The storage lists no index outside `0 .. CAP-1` (R60). -/
  buf_lt : ∀ c ∈ s.txbuf, c.1 < s.cap
  /-- R112 (a) and (c) of every instance. -/
  switches_inv : ∀ w ∈ s.switches, w.Inv
  /-- R112 (b): `POLL_EN` is on exactly while some instance validates. -/
  poll_eq : s.pollEn = pollNeeded s.switches

end Sys2Proof.Machine
end

