-- ==== Sys2Proof/Certificates/Slice0/Obligations.lean ====
section
/-! DEFINITION. The statements for the provers. Each docstring names the rule of spec/ it formalises; where a clause
is the model's own choice it says so and names the log entry. -/

open Sys2Proof Sys2Proof.Machine

/-! ### Encoding (30_encoding.md) -/

/-- The nine worked encodings of 30_encoding.md section 4 (R90, which the spec marks as derived from R84 and R89), as
words and read back, in a block of two instances. -/
def Obligations.EncodingExamplesOfTheSpec : Prop :=
  (encode (.enqb 0x41#8) = 0x1041#16 ∧ decode 2 .cmd 0x1041#16 = some (.enqb 0x41#8))
  ∧ (encode .stsend = 0x2000#16 ∧ decode 2 .cmd 0x2000#16 = some .stsend)
  ∧ (encode (.rdlvl 1#4) = 0x3100#16 ∧ decode 2 .cmd 0x3100#16 = some (.rdlvl 1#4))
  ∧ (encode (.rdreg 0x11#8) = 0x4011#16 ∧ decode 2 .cmd 0x4011#16 = some (.rdreg 0x11#8))
  ∧ (encode (.input 1#4 true) = 0x8101#16 ∧ decode 2 .evt 0x8101#16 = some (.input 1#4 true))
  ∧ (encode (.input 0#4 false) = 0x8000#16 ∧ decode 2 .evt 0x8000#16 = some (.input 0#4 false))
  ∧ (encode (.edge 1#4) = 0x9100#16 ∧ decode 2 .evt 0x9100#16 = some (.edge 1#4))
  ∧ (encode .tick = 0xA000#16 ∧ decode 2 .evt 0xA000#16 = some .tick)
  ∧ (encode .txdone = 0xB000#16 ∧ decode 2 .evt 0xB000#16 = some .txdone)

/-- R84, R89: decoding the word of a well-formed operation, on the port of its class, gives it back. -/
def Obligations.DecodeOfEncode : Prop :=
  ∀ (nSw : Nat) (i : Instr), i.wf nSw = true → decode nSw i.port (encode i) = some i

/-- R87: every operation has exactly one word for each value of its operands, so a word on a port is read as a
well-formed operation exactly when it is that operation's word on the port of its class. -/
def Obligations.ExactlyOneWordPerOperation : Prop :=
  ∀ (nSw : Nat) (p : Port) (w : Word) (i : Instr), i.wf nSw = true →
    (decode nSw p w = some i ↔ p = i.port ∧ w = encode i)

/-- R84, R85: whatever the decoder answers is a well-formed operation, presented on the port of its class. -/
def Obligations.DecodedOperationIsWellFormed : Prop :=
  ∀ (nSw : Nat) (p : Port) (w : Word) (i : Instr), decode nSw p w = some i →
    i.wf nSw = true ∧ i.port = p ∧ encode i = w

/-- R86 with R85's two port lines, and R183: which words are reserved, field by field in numbers (`OPC` is
`w / 4096`, `IDX` is `w / 256 mod 16`, `DATA` is `w mod 256`), and that a reserved word, when it is the next one
presented, changes nothing but the list of words still to come. -/
def Obligations.ReservedWordsChangeNothing : Prop :=
  (∀ (nSw : Nat) (p : Port) (w : Word),
    decode nSw p w = none ↔
      (p = .cmd ∧ 8 ≤ w.toNat / 4096) ∨ (p = .evt ∧ w.toNat / 4096 < 8)
      ∨ w.toNat / 4096 ∈ [0x5, 0x6, 0x7, 0xC, 0xD, 0xE, 0xF]
      ∨ (w.toNat / 4096 ∈ [0x0, 0x2, 0xA, 0xB] ∧ w.toNat % 4096 ≠ 0)
      ∨ (w.toNat / 4096 ∈ [0x1, 0x4] ∧ w.toNat / 256 % 16 ≠ 0)
      ∨ (w.toNat / 4096 ∈ [0x3, 0x9] ∧ w.toNat % 256 ≠ 0)
      ∨ (w.toNat / 4096 = 0x8 ∧ 2 ≤ w.toNat % 256)
      ∨ (w.toNat / 4096 ∈ [0x3, 0x8, 0x9] ∧ nSw ≤ w.toNat / 256 % 16)
      ∨ (w.toNat / 4096 = 0x4 ∧ w.toNat % 256 ∉ [0x00, 0x01, 0x02, 0x03, 0x04, 0x05, 0x08]
          ∧ ¬ (0x10 ≤ w.toNat % 256 ∧ w.toNat % 256 < 0x10 + 4 * nSw)))
  ∧ ∀ (s : State) (p : Presented) (rest : List Presented), s.config.wf = true →
      s.trace = p :: rest → decode s.nSw p.port p.word = none →
      step s = .next { s with trace := rest }

/-- R89: the word of each syntax row for operands in range, and the refusal of an operand out of its range. -/
def Obligations.AssemblyOfTheSyntaxTable : Prop :=
  ∀ nSw : Nat, nSw ≤ 16 →
    let words := fun (m : Mnemonic) (os : List Operand) =>
      (assembleOp nSw m os).map (fun is => is.map encode)
    words .nop [] = some [0x0000#16]
    ∧ (∀ b, words .enqb [.num b]
        = if b ≤ 255 then some [0x1000#16 ||| BitVec.ofNat 16 b] else none)
    ∧ words .stsend [] = some [0x2000#16]
    ∧ (∀ i, words .rdlvl [.num i]
        = if i < nSw then some [0x3000#16 ||| BitVec.ofNat 16 i <<< 8] else none)
    ∧ (∀ r, words .rdreg [.num r]
        = if r ∈ [0x00, 0x01, 0x02, 0x03, 0x04, 0x05, 0x08] ∨ (0x10 ≤ r ∧ r < 0x10 + 4 * nSw)
          then some [0x4000#16 ||| BitVec.ofNat 16 r] else none)
    ∧ (∀ i v, words .input [.num i, .num v]
        = if i < nSw ∧ v ≤ 1
          then some [0x8000#16 ||| BitVec.ofNat 16 i <<< 8 ||| BitVec.ofNat 16 v] else none)
    ∧ (∀ i, words .edge [.num i]
        = if i < nSw then some [0x9000#16 ||| BitVec.ofNat 16 i <<< 8] else none)
    ∧ words .tick [] = some [0xA000#16]
    ∧ words .txdone [] = some [0xB000#16]

/-- R91: the four pseudo-operations as the words they expand to. -/
def Obligations.PseudoOperationExpansions : Prop :=
  (∀ v : Word, (enq16le v).map encode
    = [0x1000#16 ||| (v &&& 0xFF#16), 0x1000#16 ||| (v >>> 8), 0x2000#16])
  ∧ (∀ v : Byte, (enq8p16 v).map encode
    = [0x1000#16 ||| BitVec.zeroExtend 16 v, 0x1000#16, 0x2000#16])
  ∧ (∀ bs rest : List Byte, (∀ b ∈ bs, b ≠ 0#8) → (enqStr (bs ++ 0#8 :: rest)).map encode
    = bs.map (fun b => 0x1000#16 ||| BitVec.zeroExtend 16 b) ++ [0x2000#16])
  ∧ (∀ bs : List Byte, (enqBytes bs).map encode
    = bs.map (fun b => 0x1000#16 ||| BitVec.zeroExtend 16 b) ++ [0x2000#16])

/-- The examples of 30_encoding.md section 4 (R92, which the spec marks as derived from R89 and R91): three lines of
text, as character codes, and the words they assemble to. -/
def Obligations.AssemblyExamplesOfTheSpec : Prop :=
  assemble 2 ("ENQ16LE 0x1001".toList.map Char.toNat) = some [0x1001#16, 0x1010#16, 0x2000#16]
  ∧ assemble 2 ([69, 78, 81, 83, 84, 82, 32, 34, 111, 107, 34]) = some [0x106F#16, 0x106B#16, 0x2000#16]
  ∧ assemble 2 ("ENQBYTES".toList.map Char.toNat) = some [0x2000#16]

/-! ### The step (R11, R69, R203) -/

/-- A step runs the operation of the next word presented: where the configuration is well formed, the word decodes
to an operation, and the scheduling restriction admits it, the step is that operation's `exec` with the word
taken off. -/
def Obligations.StepRunsPresentedOperation : Prop :=
  ∀ (s : State) (p : Presented) (rest : List Presented) (i : Instr), s.config.wf = true →
    s.trace = p :: rest → decode s.nSw p.port p.word = some i →
    ({ s with trace := rest } : State).admits i = true →
    step s = exec i { s with trace := rest }

/-- R203: with `PRIORITY = OFF` every well-formed operation can be the next step, whatever else is enabled; with
`PRIORITY = ON` a TICK is not taken while an EDGE or a TXDONE is enabled, an EDGE is not taken while a TXDONE is, and
everything else is; reset has `PRIORITY = OFF`. That a word not taken is dropped with nothing changed is the
model's choice (log entry 5). -/
def Obligations.SchedulingAndPriority : Prop :=
  (∀ (s : State) (i : Instr) (rest : List Presented), s.config.wf = true → i.wf s.nSw = true →
    (s.priority = false →
      step { s with trace := ⟨i.port, encode i⟩ :: rest } = exec i { s with trace := rest })
    ∧ (s.priority = true →
      ((i = .tick ∧ ((∃ w ∈ s.switches, w.edgePend = true) ∨ s.txie = true))
          ∨ ((∃ n, i = .edge n) ∧ s.txie = true) →
        step { s with trace := ⟨i.port, encode i⟩ :: rest } = .next { s with trace := rest })
      ∧ (¬ ((i = .tick ∧ ((∃ w ∈ s.switches, w.edgePend = true) ∨ s.txie = true))
          ∨ ((∃ n, i = .edge n) ∧ s.txie = true)) →
        step { s with trace := ⟨i.port, encode i⟩ :: rest } = exec i { s with trace := rest })))
  ∧ State.reset.priority = false

/-- R7: the model refuses exactly the configurations that break a bound. -/
def Obligations.IllFormedConfigurationRefused : Prop :=
  ∀ s : State, step s = .refused .configNotWellFormed ↔
    ¬ (1 ≤ s.switches.length ∧ s.switches.length ≤ 16
      ∧ (∀ w ∈ s.switches, w.par.actBounce ≤ 32767 ∧ w.par.deactBounce ≤ 32767)
      ∧ 1 ≤ s.capLog2 ∧ s.capLog2 ≤ 15 ∧ s.satThreshold ≤ 2 ^ s.capLog2 - 1)

/-- 60_exceptions.md section 1 (R200): no operation has an exception outcome, whatever the state and the operands, and no
step of a well-formed configuration stops. That `exec` answers a next state also for an event that is not enabled and for
an operand out of range is the model's choice (log entries 4 and 8). -/
def Obligations.NoOperationStops : Prop :=
  (∀ (i : Instr) (s : State), ∃ t, exec i s = .next t)
  ∧ ∀ s : State, s.config.wf = true → ∃ t, step s = .next t

/-- R11, R202, vectors E-1, T-1 and X-8: an event whose enabled condition does not hold is not taken, so nothing
changes. That `exec` then answers the unchanged state rather than stopping is the model's choice (log entry
4). -/
def Obligations.EventNotEnabledIsNotTaken : Prop :=
  ∀ s : State,
    (∀ i : BitVec 4, (∀ w, s.switches[i.toNat]? = some w → w.edgePend = false) →
      exec (.edge i) s = .next s)
    ∧ (s.pollEn = false → exec .tick s = .next s)
    ∧ (s.txie = false → exec .txdone s = .next s)

/-- Where no agent presents a word the block stays as it is. This is the model's choice (log entry 7). -/
def Obligations.StepWithNothingPresented : Prop :=
  ∀ s : State, s.config.wf = true → s.trace = [] → step s = .next s

/-- R21, R69: a step takes exactly one word off the list of words to come, and no operation writes that list (the
model's own field, log entry 3). -/
def Obligations.StepConsumesOneWord : Prop :=
  ∀ s t : State, step s = .next t → t.trace = s.trace.tail

/-! ### Control (42_control.md) -/

/-- R180: NOP keeps every state element, and a word with `OPC = 0` and another bit set is reserved, with the same
effect. -/
def Obligations.NopKeepsEveryElement : Prop :=
  (∀ s : State, exec .nop s = .next s)
  ∧ (∀ nSw : Nat, decode nSw .cmd 0x0000#16 = some .nop)
  ∧ ∀ (s : State) (w : Word) (rest : List Presented), s.config.wf = true → w ≠ 0#16 → w.toNat < 4096 →
      step { s with trace := ⟨.cmd, w⟩ :: rest } = .next { s with trace := rest }

/-- R40, R181, R182: the value of every status register as a number, bit by bit of R40's table, put in RESP with
nothing else changed; RDREG of an unassigned number changes nothing. `N_SW` is at most 16 (R7). -/
def Obligations.RdregReadsStatusRegister : Prop :=
  ∀ s : State, s.switches.length ≤ 16 →
    let reads := fun (r v : Nat) =>
      exec (.rdreg (BitVec.ofNat 8 r)) s = .next { s with resp := BitVec.ofNat 16 v }
    reads 0x00 (s.txie.toNat + 2 * s.sending.toNat + 4 * s.sat.toNat)
    ∧ reads 0x01 s.eqIdx
    ∧ reads 0x02 s.sdIdx
    ∧ reads 0x03 ((((s.eqIdx : Int) - (s.sdIdx : Int)) % ((2 ^ s.capLog2 : Nat) : Int)).toNat)
    ∧ reads 0x04 s.capLog2
    ∧ reads 0x05 s.satThreshold
    ∧ reads 0x08 (s.pollEn.toNat + 256 * s.switches.length)
    ∧ (∀ (i : Nat) (w : Switch), s.switches[i]? = some w →
        reads (0x10 + 4 * i)
          ((match w.state with
            | .expectHigh => 0 | .validateHigh => 1 | .expectLow => 2 | .validateLow => 3)
            + 4 * w.out.toNat + 8 * (w.line != w.par.activeLow).toNat + 16 * w.edgePend.toNat
            + 32 * w.line.toNat + 64 * w.par.activeLow.toNat)
        ∧ reads (0x11 + 4 * i) w.cnt.toNat
        ∧ reads (0x12 + 4 * i) w.par.actBounce
        ∧ reads (0x13 + 4 * i) w.par.deactBounce)
    ∧ ∀ r : BitVec 8, r.toNat ∉ [0x00, 0x01, 0x02, 0x03, 0x04, 0x05, 0x08] →
        ¬ (0x10 ≤ r.toNat ∧ r.toNat < 0x10 + 4 * s.switches.length) →
        exec (.rdreg r) s = .next s

/-- R65: RDREG and RDLVL write RESP only and are idempotent: reading again gives the same state. -/
def Obligations.ReadsAreIdempotent : Prop :=
  ∀ (i : Instr) (s t : State), ((∃ r, i = .rdreg r) ∨ ∃ n, i = .rdlvl n) → exec i s = .next t →
    exec i t = .next t ∧ t = { s with resp := t.resp }

/-! ### The debounce unit (40_debounce.md) -/

/-- R100: the ten rows of the state table, as the transition function applies them to an instance `i`. -/
def Obligations.StateTableRows : Prop :=
  ∀ (i : Nat) (w : Switch),
    (w.state = .expectHigh →
      dbstep i w true
        = ({ w with state := .validateHigh, cnt := BitVec.ofNat 16 w.par.actBounce }, [])
      ∧ dbstep i w false = (w, []))
    ∧ (w.state = .validateHigh →
      (0 < (w.cnt - 1#16).toInt → dbstep i w true = ({ w with cnt := w.cnt - 1#16 }, []))
      ∧ ((w.cnt - 1#16).toInt ≤ 0 → dbstep i w true
          = ({ w with cnt := w.cnt - 1#16, state := .expectLow, out := true }, [.act i]))
      ∧ dbstep i w false = ({ w with state := .expectHigh }, []))
    ∧ (w.state = .expectLow →
      dbstep i w false
        = ({ w with state := .validateLow, cnt := BitVec.ofNat 16 w.par.deactBounce }, [])
      ∧ dbstep i w true = (w, []))
    ∧ (w.state = .validateLow →
      (0 < (w.cnt - 1#16).toInt → dbstep i w false = ({ w with cnt := w.cnt - 1#16 }, []))
      ∧ ((w.cnt - 1#16).toInt ≤ 0 → dbstep i w false
          = ({ w with cnt := w.cnt - 1#16, state := .expectHigh, out := false }, [.deact i]))
      ∧ dbstep i w true = ({ w with state := .expectLow }, []))

/-- 40_debounce.md section 1 (R102, which the spec marks as derived from R100 and R7): a Validate-row application to a
counter of a run subtracts exactly 1 without wrapping, ends the validation exactly when the signed value after the
subtraction is at most 0, and reaches -1 at the least; an Expect row that arms the instance seeds the counter with the
settle duration itself, for every duration in range. -/
def Obligations.CounterCountsTicks : Prop :=
  (∀ (i : Nat) (w : Switch) (l : Bool), 0 ≤ w.cnt.toInt →
    ((w.state = .validateHigh ∧ l = true) ∨ (w.state = .validateLow ∧ l = false)) →
    (dbstep i w l).1.cnt.toInt = w.cnt.toInt - 1
    ∧ -1 ≤ (dbstep i w l).1.cnt.toInt
    ∧ ((dbstep i w l).1.state ≠ w.state ↔ (dbstep i w l).1.cnt.toInt ≤ 0))
  ∧ ∀ (i : Nat) (w : Switch),
    (w.state = .expectHigh → w.par.actBounce ≤ 32767 →
      (dbstep i w true).1.cnt.toInt = w.par.actBounce)
    ∧ (w.state = .expectLow → w.par.deactBounce ≤ 32767 →
      (dbstep i w false).1.cnt.toInt = w.par.deactBounce)

/-- R105: INPUT of a new level writes the line and sets the pending bit of its instance only; of the level already
there, nothing. That `exec` of an instance number out of range changes nothing, as its reserved word would (R86, R183), is
the model's (log entry 8). -/
def Obligations.InputRecordsEdge : Prop :=
  ∀ (s : State) (i : BitVec 4) (v : Bool),
    (∀ w, s.switches[i.toNat]? = some w → v ≠ w.line →
      exec (.input i v) s
        = .next { s with switches := s.switches.set i.toNat { w with line := v, edgePend := true } })
    ∧ (∀ w, s.switches[i.toNat]? = some w → v = w.line → exec (.input i v) s = .next s)
    ∧ (s.switches.length ≤ i.toNat → exec (.input i v) s = .next s)

/-- R106: the edge service clears the pending bit; it arms the instance, seeding the counter, only if it is in the
Expect state that waits for the level read now; then `POLL_EN` is recomputed. No output, no event, and nothing
else changes. -/
def Obligations.EdgeServiceArms : Prop :=
  ∀ (s : State) (i : BitVec 4) (w : Switch), s.switches[i.toNat]? = some w → w.edgePend = true →
    ∃ (w' : Switch) (t : State), exec (.edge i) s = .next t
      ∧ t = { s with switches := s.switches.set i.toNat w', pollEn := t.pollEn }
      ∧ (t.pollEn = true ↔ ∃ u ∈ t.switches, u.state = .validateHigh ∨ u.state = .validateLow)
      ∧ (w.state = .expectHigh ∧ (w.line != w.par.activeLow) = true →
          w' = { w with edgePend := false, state := .validateHigh,
                        cnt := BitVec.ofNat 16 w.par.actBounce })
      ∧ (w.state = .expectLow ∧ (w.line != w.par.activeLow) = false →
          w' = { w with edgePend := false, state := .validateLow,
                        cnt := BitVec.ofNat 16 w.par.deactBounce })
      ∧ (¬ (w.state = .expectHigh ∧ (w.line != w.par.activeLow) = true)
          ∧ ¬ (w.state = .expectLow ∧ (w.line != w.par.activeLow) = false) →
          w' = { w with edgePend := false })

/-- R107: an enabled tick applies its table row to every instance in a Validate state, with the level it reads now,
leaves the others alone, appends the events in ascending order of instance, recomputes `POLL_EN` and changes nothing
else. -/
def Obligations.TickAdvancesValidatingInstances : Prop :=
  ∀ s : State, s.pollEn = true →
    ∃ t : State, exec .tick s = .next t
      ∧ t = { s with switches := t.switches, evtLog := t.evtLog, pollEn := t.pollEn }
      ∧ t.switches.length = s.switches.length
      ∧ (∀ (j : Nat) (w : Switch), s.switches[j]? = some w → t.switches[j]? = some
          (if w.state = .validateHigh ∨ w.state = .validateLow
            then (dbstep j w (w.line != w.par.activeLow)).1 else w))
      ∧ t.evtLog = s.evtLog ++ (s.switches.zipIdx.map (fun wj =>
          if wj.1.state = .validateHigh ∨ wj.1.state = .validateLow
            then (dbstep wj.2 wj.1 (wj.1.line != wj.1.par.activeLow)).2 else [])).flatten
      ∧ (t.pollEn = true ↔ ∃ u ∈ t.switches, u.state = .validateHigh ∨ u.state = .validateLow)

/-- R108: RDLVL puts the validated level of its instance in RESP, zero-extended, and changes nothing else; an instance
number out of range is reserved. -/
def Obligations.RdlvlReadsValidatedLevel : Prop :=
  ∀ (s : State) (i : BitVec 4),
    (∀ w, s.switches[i.toNat]? = some w →
      exec (.rdlvl i) s = .next { s with resp := if w.out then 0x0001#16 else 0x0000#16 })
    ∧ (s.switches.length ≤ i.toNat → exec (.rdlvl i) s = .next s)

/-- R104: after an EDGE or a TICK that is taken, `POLL_EN` is 1 exactly when some instance is in a Validate state; no
other step writes it. -/
def Obligations.PollEnableFollowsEdgeAndTick : Prop :=
  ∀ (i : Instr) (s t : State), exec i s = .next t →
    (((∃ n : BitVec 4, i = .edge n ∧ ∃ w, s.switches[n.toNat]? = some w ∧ w.edgePend = true)
        ∨ (i = .tick ∧ s.pollEn = true)) →
      (t.pollEn = true ↔ ∃ u ∈ t.switches, u.state = .validateHigh ∨ u.state = .validateLow))
    ∧ (¬ ((∃ n : BitVec 4, i = .edge n ∧ ∃ w, s.switches[n.toNat]? = some w ∧ w.edgePend = true)
        ∨ (i = .tick ∧ s.pollEn = true)) → t.pollEn = s.pollEn)

/-- R101 with R26: a callback is emitted exactly once per validated transition and at no other time. Whatever the
operation, the events it appends hold one ACT(j) if instance j's output rose in that step and none otherwise, and one
DEACT(j) if it fell and none otherwise. The invariant rules out states no run reaches. -/
def Obligations.OneCallbackPerValidatedTransition : Prop :=
  ∀ (i : Instr) (s t : State), Inv s → exec i s = .next t →
    ∃ es : List Event, t.evtLog = s.evtLog ++ es
      ∧ (∀ (j : Nat) (w w' : Switch), s.switches[j]? = some w → t.switches[j]? = some w' →
          es.count (.act j) = (if w.out = false ∧ w'.out = true then 1 else 0)
          ∧ es.count (.deact j) = (if w.out = true ∧ w'.out = false then 1 else 0))
      ∧ ∀ j : Nat, s.switches.length ≤ j → es.count (.act j) = 0 ∧ es.count (.deact j) = 0

/-- R103, S1: whatever the operation, an instance that changes state does so along an edge of the state table, with
the reading that edge names. -/
def Obligations.TransitionsFollowTheTable : Prop :=
  ∀ (i : Instr) (s t : State) (j : Nat) (w w' : Switch), exec i s = .next t →
    s.switches[j]? = some w → t.switches[j]? = some w' → w'.state ≠ w.state →
    (w.state, w.level, w'.state) ∈
      [(Fsm.expectHigh, true, Fsm.validateHigh), (Fsm.validateHigh, true, Fsm.expectLow),
       (Fsm.validateHigh, false, Fsm.expectHigh), (Fsm.expectLow, false, Fsm.validateLow),
       (Fsm.validateLow, false, Fsm.expectHigh), (Fsm.validateLow, true, Fsm.expectLow)]

/-- R109: the instances evolve independently. A step on instance i leaves every other instance as it was; and what a
tick does to an instance is the same in any two states that agree on that instance, whatever the others are. -/
def Obligations.InstancesEvolveIndependently : Prop :=
  (∀ (i : Instr) (n : BitVec 4) (s t : State) (j : Nat),
    (i = .edge n ∨ (∃ v, i = .input n v) ∨ i = .rdlvl n) → exec i s = .next t → j ≠ n.toNat →
    t.switches[j]? = s.switches[j]?)
  ∧ ∀ (s₁ s₂ t₁ t₂ : State) (j : Nat), s₁.pollEn = true → s₂.pollEn = true →
      s₁.switches[j]? = s₂.switches[j]? → exec .tick s₁ = .next t₁ → exec .tick s₂ = .next t₂ →
      t₁.switches[j]? = t₂.switches[j]?

/-- 40_debounce.md section 3 (R111, which the spec marks as derived from R105, R106 and R107): a change of a line that is undone before the next EDGE or TICK changes nothing but the pending bit, so a
bounce between two ticks does not abort a validation: the tick after it does to the instance what it would have
done. -/
def Obligations.BounceBetweenTicksIsNotSeen : Prop :=
  ∀ (s : State) (i : BitVec 4) (w : Switch), s.switches[i.toNat]? = some w →
    execAll [.input i (!w.line), .input i w.line] s
      = .next { s with switches := s.switches.set i.toNat { w with edgePend := true } }
    ∧ ∀ t t' : State, s.pollEn = true → exec .tick s = .next t →
        execAll [.input i (!w.line), .input i w.line, .tick] s = .next t' →
        t'.evtLog = t.evtLog ∧ t'.pollEn = t.pollEn
        ∧ ∀ u : Switch, t.switches[i.toNat]? = some u →
            t'.switches[i.toNat]? = some { u with edgePend := true }

/-- 40_debounce.md section 3 (R110, which the spec marks as derived from R100, R102, R106 and R107): settle duration, with the steps of every other agent interleaved. An instance armed from EH by an EDGE that
reads High, every TICK after it reading High, is in VH with no callback while fewer than `max(1, ACT_BOUNCE)` ticks have
come; the tick that completes that number, if it reads High too, takes it to EL with output High and emits ACT once; a
tick before that, or that one, that reads Low takes it to EH and emits nothing. The same from EL with Low, DEACT_BOUNCE
and DEACT. -/
def Obligations.SettleDuration : Prop :=
  ∀ (s t u : State) (n : BitVec 4) (w : Switch) (is : List Instr), Inv s →
    s.switches[n.toNat]? = some w → w.edgePend = true →
    execAll (.edge n :: is) s = .next t → exec .tick t = .next u →
    (w.state = .expectHigh → w.level = true → TicksRead n.toNat true (.edge n :: is) s →
      is.count .tick < max 1 w.par.actBounce →
      ∃ w' w'' : Switch, t.switches[n.toNat]? = some w' ∧ u.switches[n.toNat]? = some w''
        ∧ w'.state = .validateHigh ∧ w'.out = false
        ∧ t.evtLog.count (.act n.toNat) = s.evtLog.count (.act n.toNat)
        ∧ u.evtLog.count (.deact n.toNat) = s.evtLog.count (.deact n.toNat)
        ∧ (w'.level = true → is.count .tick + 1 = max 1 w.par.actBounce →
            w''.state = .expectLow ∧ w''.out = true
            ∧ u.evtLog.count (.act n.toNat) = s.evtLog.count (.act n.toNat) + 1)
        ∧ (w'.level = false → w''.state = .expectHigh ∧ w''.out = false
            ∧ u.evtLog.count (.act n.toNat) = s.evtLog.count (.act n.toNat)))
    ∧ (w.state = .expectLow → w.level = false → TicksRead n.toNat false (.edge n :: is) s →
      is.count .tick < max 1 w.par.deactBounce →
      ∃ w' w'' : Switch, t.switches[n.toNat]? = some w' ∧ u.switches[n.toNat]? = some w''
        ∧ w'.state = .validateLow ∧ w'.out = true
        ∧ t.evtLog.count (.deact n.toNat) = s.evtLog.count (.deact n.toNat)
        ∧ u.evtLog.count (.act n.toNat) = s.evtLog.count (.act n.toNat)
        ∧ (w'.level = false → is.count .tick + 1 = max 1 w.par.deactBounce →
            w''.state = .expectHigh ∧ w''.out = false
            ∧ u.evtLog.count (.deact n.toNat) = s.evtLog.count (.deact n.toNat) + 1)
        ∧ (w'.level = true → w''.state = .expectLow ∧ w''.out = true
            ∧ u.evtLog.count (.deact n.toNat) = s.evtLog.count (.deact n.toNat)))

/-! ### The transmit unit (41_txbuffer.md) -/

/-- R140: ENQB stores its byte at the index `EQ` addresses, leaves every other byte of the storage, advances `EQ`
modulo CAP, and changes nothing else; a K-bit `EQ` addresses itself; with `COUNT = CAP-1` it leaves `COUNT = 0`. -/
def Obligations.EnqbStoresByteAtEnqueueIndex : Prop :=
  ∀ (s : State) (b : Byte), s.txbuf.wf = true →
    ∃ t : State, exec (.enqb b) s = .next t
      ∧ t = { s with txbuf := t.txbuf, eqIdx := t.eqIdx }
      ∧ t.eqIdx = (s.eqIdx + 1) % 2 ^ s.capLog2
      ∧ t.txbuf.read (s.slot s.eqIdx) = b
      ∧ (∀ a : Nat, a ≠ s.slot s.eqIdx → t.txbuf.read a = s.txbuf.read a)
      ∧ t.txbuf.wf = true
      ∧ (s.eqIdx < 2 ^ s.capLog2 → s.slot s.eqIdx = s.eqIdx)
      ∧ (s.eqIdx < 2 ^ s.capLog2 → s.sdIdx < 2 ^ s.capLog2 → s.count = 2 ^ s.capLog2 - 1 → t.count = 0)

/-- 41_txbuffer.md section 1 (R141, which the spec marks as derived from R140 and R150): ENQB with `COUNT = CAP-1` fills the last free slot and makes `EQ` equal to `SD`, so `COUNT` is 0; the next
TXDONE then takes the drained branch and sends nothing; and a further ENQB overwrites the oldest byte that was never
sent. -/
def Obligations.OverflowLosesQueuedBytes : Prop :=
  ∀ (s : State) (b b' : Byte), s.eqIdx < s.cap → s.sdIdx < s.cap → s.txbuf.wf = true →
    s.count = s.cap - 1 →
    ∃ t u : State, exec (.enqb b) s = .next t
      ∧ t.txbuf.read s.eqIdx = b ∧ t.eqIdx = s.sdIdx ∧ t.sdIdx = s.sdIdx ∧ t.count = 0
      ∧ (s.txie = true → exec .txdone t = .next { t with txie := false, sending := false })
      ∧ exec (.enqb b') t = .next u ∧ u.txbuf.read s.sdIdx = b'

/-- R142: STSEND sets TXIE and SENDING, computes SAT, and changes nothing else; twice in a row it equals once; on an
empty buffer the next TXDONE clears TXIE and SENDING again with nothing sent. -/
def Obligations.StsendArmsTransmission : Prop :=
  ∀ s : State,
    exec .stsend s = .next { s with
      txie := true, sending := true,
      sat := decide ((s.satThreshold : Int)
        < ((s.eqIdx : Int) - (s.sdIdx : Int)) % ((2 ^ s.capLog2 : Nat) : Int)) }
    ∧ execAll [.stsend, .stsend] s = exec .stsend s
    ∧ (s.eqIdx = s.sdIdx → ∃ t : State, execAll [.stsend, .txdone] s = .next t
        ∧ t = { s with txie := false, sending := false, sat := t.sat })

/-- R143, R38: SAT is set at STSEND exactly when COUNT, a number below CAP, is strictly above the threshold; every
other operation leaves it as it was. -/
def Obligations.SatIsComputedAtStsendOnly : Prop :=
  ∀ (i : Instr) (s t : State), exec i s = .next t →
    (i = .stsend → (t.sat = true ↔ s.satThreshold < s.count) ∧ s.count < 2 ^ s.capLog2)
    ∧ (i ≠ .stsend → t.sat = s.sat)

/-- R150: an enabled TXDONE on a drained buffer clears TXIE and SENDING; otherwise it emits the byte at `SD` and
advances `SD` modulo CAP, leaving TXIE set; nothing else changes, the storage included. -/
def Obligations.TxdoneSendsOrDrains : Prop :=
  ∀ s : State, s.txie = true →
    (s.sdIdx = s.eqIdx → exec .txdone s = .next { s with txie := false, sending := false })
    ∧ (s.sdIdx ≠ s.eqIdx → exec .txdone s = .next { s with
        evtLog := s.evtLog ++ [.txbyte (s.txbuf.read (s.slot s.sdIdx))],
        sdIdx := (s.sdIdx + 1) % 2 ^ s.capLog2 })
    ∧ (s.sdIdx < 2 ^ s.capLog2 → s.slot s.sdIdx = s.sdIdx)

/-- R35: COUNT is the difference of the two K-bit indices modulo CAP, below CAP, and 0 exactly when they are equal, so
a buffer of CAP unsent bytes cannot be told from an empty one. -/
def Obligations.CountIsUnsentBytes : Prop :=
  ∀ s : State, s.eqIdx < s.cap → s.sdIdx < s.cap →
    (s.count : Int) = ((s.eqIdx : Int) - (s.sdIdx : Int)) % (s.cap : Int)
    ∧ s.count < s.cap ∧ (s.sdIdx + s.count) % s.cap = s.eqIdx ∧ (s.count = 0 ↔ s.eqIdx = s.sdIdx)

/-- 41_txbuffer.md section 1 (R151, which the spec marks as derived from R142 and R150): after STSEND with `COUNT = n`,
over every run with no ENQB, whatever else is interleaved, the first n TXDONE steps emit the n queued bytes in order, with
TXIE and SENDING on; the next TXDONE emits nothing and clears TXIE and SENDING, after which TXDONE is not enabled, and stays
so for as long as no STSEND is taken. With nothing interleaved, nothing else changes but SAT. -/
def Obligations.DrainSendsEveryQueuedByte : Prop :=
  ∀ s : State, s.eqIdx < s.cap → s.sdIdx < s.cap →
    s.queued.length = s.count
    ∧ (∀ is : List Instr, (∀ b, .enqb b ∉ is) →
      ∃ t : State, execAll (.stsend :: is) s = .next t
        ∧ (is.count .txdone ≤ s.count →
            t.wire = s.wire ++ s.queued.take (is.count .txdone)
            ∧ t.queued = s.queued.drop (is.count .txdone) ∧ t.txie = true ∧ t.sending = true)
        ∧ (is.count .txdone = s.count →
            ∃ u : State, exec .txdone t = .next u ∧ u.wire = t.wire ∧ u.queued = []
              ∧ u.txie = false ∧ u.sending = false ∧ u.enabled .txdone = false)
        ∧ (s.count < is.count .txdone →
            t.wire = s.wire ++ s.queued ∧ t.queued = [] ∧ t.sdIdx = s.eqIdx
            ∧ (.stsend ∉ is → t.txie = false ∧ t.sending = false ∧ t.enabled .txdone = false)))
    ∧ (∃ t : State, execAll (.stsend :: List.replicate s.count .txdone) s = .next t
      ∧ t = { s with evtLog := s.evtLog ++ s.queued.map Event.txbyte, sdIdx := s.eqIdx,
                     txie := true, sending := true, sat := s.saturated })
    ∧ ∃ t : State, execAll (.stsend :: List.replicate (s.count + 1) .txdone) s = .next t
      ∧ t = { s with evtLog := s.evtLog ++ s.queued.map Event.txbyte, sdIdx := s.eqIdx,
                     txie := false, sending := false, sat := s.saturated }
      ∧ t.enabled .txdone = false

/-- 20_memory.md section 4 (R70, which the spec marks as derived from R140 and R150): FIFO delivery, exactly once, over every interleaving without an overflow. The bytes on the wire followed by
the bytes still queued are the ones there before followed by the ones the run enqueued; so from an empty queue and an
empty wire, as after reset, the wire is a prefix of the bytes enqueued. -/
def Obligations.FifoDelivery : Prop :=
  ∀ (s t : State) (is : List Instr), Inv s → NoOverflow is s → execAll is s = .next t →
    t.wire ++ t.queued = s.wire ++ s.queued ++ enqueued is
    ∧ (s.wire = [] → s.queued = [] → t.wire <+: enqueued is)

/-- 70_reset_and_hazards.md section 2 (R240, where the spec marks this sentence as derived from R140 and R150): a producer whose record fits, `COUNT + n ≤ CAP - 1` when it starts, never overflows, whatever other steps
are interleaved, as long as the n bytes are the only ones enqueued. -/
def Obligations.RecordWithRoomNeverOverflows : Prop :=
  ∀ (s : State) (is : List Instr), Inv s → s.count + (enqueued is).length ≤ s.cap - 1 → NoOverflow is s

/-- R160: ENQ16LE expands to ENQB of the low byte, ENQB of the high byte, STSEND; with nothing interleaved it stores the low byte at `EQ` and the high byte after it, wrapping,
leaves every other byte, advances `EQ` by 2 modulo CAP, then has STSEND's effect. -/
def Obligations.Enq16leNetEffect : Prop :=
  ∀ (s : State) (v : Word), s.txbuf.wf = true → 1 ≤ s.capLog2 →
    enq16le v = [.enqb (BitVec.ofNat 8 (v.toNat % 256)), .enqb (BitVec.ofNat 8 (v.toNat / 256)), .stsend]
    ∧ ∃ t : State, execAll (enq16le v) s = .next t
      ∧ t.txbuf.read (s.eqIdx % s.cap) = BitVec.ofNat 8 (v.toNat % 256)
      ∧ t.txbuf.read ((s.eqIdx + 1) % s.cap) = BitVec.ofNat 8 (v.toNat / 256)
      ∧ (∀ a : Nat, a ≠ s.eqIdx % s.cap → a ≠ (s.eqIdx + 1) % s.cap →
          t.txbuf.read a = s.txbuf.read a)
      ∧ t.eqIdx = (s.eqIdx + 2) % s.cap
      ∧ t = { s with txbuf := t.txbuf, eqIdx := t.eqIdx, txie := true, sending := true,
                     sat := decide (s.satThreshold < t.count) }

/-- R164: a pseudo-operation is not atomic. A TXDONE between the two ENQB of an ENQ16LE on an empty running buffer
sends the low byte before the high byte is enqueued. -/
def Obligations.TxdoneBetweenTheBytesOfARecord : Prop :=
  ∀ (s : State) (v : Word), Inv s → s.txie = true → s.count = 0 →
    ∃ t : State, execAll [.enqb (v.extractLsb' 0 8), .txdone] s = .next t
      ∧ t.wire = s.wire ++ [v.extractLsb' 0 8] ∧ t.queued = [] ∧ t.txie = true
      ∧ ∃ u : State, execAll [.enqb (v.extractLsb' 8 8), .stsend] t = .next u
        ∧ u.wire = t.wire ∧ u.queued = [v.extractLsb' 8 8]

/-- 41_txbuffer.md section 2 (R165, which the spec marks as derived from R160 and R70): a run without overflow that enqueues exactly the bytes of `ENQ16LE v`, from an empty queue until the queue is
empty again, puts `v[7:0]` then `v[15:8]` on the wire, and v is the first plus 256 times the second. -/
def Obligations.Enq16leRoundTrip : Prop :=
  ∀ (s t : State) (v : Word) (is : List Instr), Inv s → NoOverflow is s →
    enqueued is = enqueued (enq16le v) → s.queued = [] → execAll is s = .next t → t.queued = [] →
    ∃ b0 b1 : Byte, t.wire = s.wire ++ [b0, b1] ∧ v.toNat = b0.toNat + 256 * b1.toNat

/-! ### The whole block -/

/-- 40_debounce.md section 3 (R112, which the spec marks as derived from R100 and R104 to R108), with the ranges of R33
and R34 and the storage's canonical form (the model's own): the invariant is kept by every
step. -/
def Obligations.InvariantKeptByEveryStep : Prop :=
  ∀ s t : State, Inv s → step s = .next t → Inv t

/-- R230 with 40_debounce.md section 3 (R112): the invariant holds after reset, for every well-formed configuration. -/
def Obligations.InvariantAfterReset : Prop :=
  ∀ c : Config, c.wf = true → Inv (State.resetOf c)

/-- R41 with the rules of the elements (R23, R24, R26 to R28, R30, R32 to R34, R36 to R39, R45): each state element is
written only by the operations its rule names. -/
def Obligations.EachElementHasItsWriters : Prop :=
  ∀ (i : Instr) (s t : State), exec i s = .next t →
    (t.eqIdx = s.eqIdx ∧ t.txbuf = s.txbuf
      ∨ ∃ b, i = .enqb b ∧ t.eqIdx = (s.eqIdx + 1) % s.cap)
    ∧ (t.sdIdx = s.sdIdx
      ∨ i = .txdone ∧ s.txie = true ∧ s.sdIdx ≠ s.eqIdx ∧ t.sdIdx = (s.sdIdx + 1) % s.cap)
    ∧ (t.resp = s.resp ∨ (∃ n, i = .rdlvl n) ∨ ∃ r, i = .rdreg r)
    ∧ (t.txie = s.txie ∧ t.sending = s.sending
      ∨ i = .stsend ∧ t.txie = true ∧ t.sending = true
      ∨ i = .txdone ∧ t.txie = false ∧ t.sending = false)
    ∧ (t.sat = s.sat ∨ i = .stsend)
    ∧ (t.pollEn = s.pollEn ∨ i = .tick ∨ ∃ n, i = .edge n)
    ∧ (t.evtLog = s.evtLog ∨ i = .tick ∨ i = .txdone)
    ∧ t.switches.length = s.switches.length
    ∧ ∀ (j : Nat) (w w' : Switch), s.switches[j]? = some w → t.switches[j]? = some w' →
        (w'.state = w.state ∧ w'.cnt = w.cnt ∨ i = .tick ∨ ∃ n : BitVec 4, i = .edge n ∧ n.toNat = j)
        ∧ (w'.out = w.out ∨ i = .tick)
        ∧ (w'.line = w.line ∨ ∃ n : BitVec 4, i = .input n w'.line ∧ n.toNat = j)
        ∧ (w'.edgePend = w.edgePend
          ∨ (w'.edgePend = true ∧ ∃ (n : BitVec 4) (v : Bool), i = .input n v ∧ n.toNat = j)
          ∨ (w'.edgePend = false ∧ ∃ n : BitVec 4, i = .edge n ∧ n.toNat = j))

/-- R6, R29, R41: the configuration is fixed for a run: no step changes it. -/
def Obligations.ConfigurationIsFixed : Prop :=
  ∀ s t : State, step s = .next t →
    t.config = s.config ∧ t.nSw = s.nSw ∧ t.cap = s.cap

/-- R45: no step removes or changes an entry of the event log. -/
def Obligations.EventLogOnlyGrows : Prop :=
  ∀ s t : State, step s = .next t → s.evtLog <+: t.evtLog

/-- R230: the value of every state element after reset, for every configuration; COUNT is 0, and exactly command words
and INPUT are enabled. -/
def Obligations.ResetLeavesTheseValues : Prop :=
  ∀ c : Config,
    let s := State.resetOf c
    s.config = c
    ∧ (∀ (i : Nat) (p : SwitchParams), c.switches[i]? = some p → ∃ w, s.switches[i]? = some w
        ∧ w.state = .expectHigh ∧ w.line = p.initLine ∧ w.out = false ∧ w.edgePend = false
        ∧ w.cnt = 0#16)
    ∧ s.pollEn = false ∧ (∀ a : Nat, s.txbuf.read a = 0#8) ∧ s.eqIdx = 0 ∧ s.sdIdx = 0
    ∧ s.txie = false ∧ s.sending = false ∧ s.sat = false ∧ s.resp = 0#16 ∧ s.evtLog = []
    ∧ s.count = 0
    ∧ ∀ i : Instr, (s.enabled i = true ↔ i.port = .cmd ∨ ∃ n v, i = .input n v)

/-- 70_reset_and_hazards.md section 1 (R234, which the spec marks as derived from R230 and R106): a button already active at reset is not reported: no edge is pending, RDLVL reads 0, its release is ignored by
EDGE, and only the press after that arms it. -/
def Obligations.ButtonHeldAtResetIsNotReported : Prop :=
  ∀ (c : Config) (n : BitVec 4) (p : SwitchParams), c.switches[n.toNat]? = some p →
    p.initLine.xor p.activeLow = true →
    (State.resetOf c).enabled (.edge n) = false
    ∧ exec (.rdlvl n) (State.resetOf c) = .next (State.resetOf c)
    ∧ ∃ (t u : State) (w w' : Switch),
        execAll [.input n p.activeLow, .edge n] (State.resetOf c) = .next t
        ∧ t.switches[n.toNat]? = some w ∧ w.state = .expectHigh ∧ w.out = false ∧ t.evtLog = []
        ∧ execAll [.input n (!p.activeLow), .edge n] t = .next u
        ∧ u.switches[n.toNat]? = some w' ∧ w'.state = .validateHigh ∧ u.pollEn = true

/-- 60_exceptions.md section 4 (R216, which the spec marks as derived from R202, R110 and R151): with no ENQB, no STSEND and no INPUT, the service steps that can be taken are bounded by the work left,
whatever the schedule and whatever reads are interleaved, TXDONE among them by `COUNT + 1`; in a state that is not
quiescent some service step may be taken, and in a quiescent one none is enabled. -/
def Obligations.QuiescenceIsReached : Prop :=
  (∀ (s : State) (is : List Instr), Inv s → LegalRun is s →
    (∀ i ∈ is, serviceStep i = true ∨ i = .nop ∨ (∃ n, i = .rdlvl n) ∨ ∃ r, i = .rdreg r) →
    (is.filter serviceStep).length ≤ s.work
    ∧ is.count .txdone ≤ (if s.txie then s.count + 1 else 0))
  ∧ (∀ s : State, Inv s → s.quiescent = false → ∃ i : Instr, serviceStep i = true ∧ s.legal i = true)
  ∧ ∀ (s : State) (i : Instr), s.quiescent = true → serviceStep i = true → s.enabled i = false
end

