-- ==== Sys2Proof/Laws/State.lean ====
section
/-! SUPPORT. One lemma per field per update of the state, each true by rfl, so that no proof unfolds a record
update. -/

namespace Sys2Proof.Machine

section
variable (s : State)

/-! ### `setSwitch` -/

@[simp] theorem State.setSwitch_switches (i : Nat) (w : Switch) : (s.setSwitch i w).switches = s.switches.set i w := rfl
@[simp] theorem State.setSwitch_pollEn (i : Nat) (w : Switch) : (s.setSwitch i w).pollEn = s.pollEn := rfl
@[simp] theorem State.setSwitch_txbuf (i : Nat) (w : Switch) : (s.setSwitch i w).txbuf = s.txbuf := rfl
@[simp] theorem State.setSwitch_eqIdx (i : Nat) (w : Switch) : (s.setSwitch i w).eqIdx = s.eqIdx := rfl
@[simp] theorem State.setSwitch_sdIdx (i : Nat) (w : Switch) : (s.setSwitch i w).sdIdx = s.sdIdx := rfl
@[simp] theorem State.setSwitch_txie (i : Nat) (w : Switch) : (s.setSwitch i w).txie = s.txie := rfl
@[simp] theorem State.setSwitch_sending (i : Nat) (w : Switch) : (s.setSwitch i w).sending = s.sending := rfl
@[simp] theorem State.setSwitch_sat (i : Nat) (w : Switch) : (s.setSwitch i w).sat = s.sat := rfl
@[simp] theorem State.setSwitch_resp (i : Nat) (w : Switch) : (s.setSwitch i w).resp = s.resp := rfl
@[simp] theorem State.setSwitch_evtLog (i : Nat) (w : Switch) : (s.setSwitch i w).evtLog = s.evtLog := rfl
@[simp] theorem State.setSwitch_capLog2 (i : Nat) (w : Switch) : (s.setSwitch i w).capLog2 = s.capLog2 := rfl
@[simp] theorem State.setSwitch_satThreshold (i : Nat) (w : Switch) : (s.setSwitch i w).satThreshold = s.satThreshold := rfl
@[simp] theorem State.setSwitch_priority (i : Nat) (w : Switch) : (s.setSwitch i w).priority = s.priority := rfl
@[simp] theorem State.setSwitch_trace (i : Nat) (w : Switch) : (s.setSwitch i w).trace = s.trace := rfl
@[simp] theorem State.setSwitch_cap (i : Nat) (w : Switch) : (s.setSwitch i w).cap = s.cap := rfl
@[simp] theorem State.setSwitch_count (i : Nat) (w : Switch) : (s.setSwitch i w).count = s.count := rfl
@[simp] theorem State.setSwitch_nSw (i : Nat) (w : Switch) : (s.setSwitch i w).nSw = s.nSw := by
  simp [State.nSw]

/-! ### `setSwitches` -/

@[simp] theorem State.setSwitches_switches (ws : List Switch) : (s.setSwitches ws).switches = ws := rfl
@[simp] theorem State.setSwitches_pollEn (ws : List Switch) : (s.setSwitches ws).pollEn = s.pollEn := rfl
@[simp] theorem State.setSwitches_txbuf (ws : List Switch) : (s.setSwitches ws).txbuf = s.txbuf := rfl
@[simp] theorem State.setSwitches_eqIdx (ws : List Switch) : (s.setSwitches ws).eqIdx = s.eqIdx := rfl
@[simp] theorem State.setSwitches_sdIdx (ws : List Switch) : (s.setSwitches ws).sdIdx = s.sdIdx := rfl
@[simp] theorem State.setSwitches_txie (ws : List Switch) : (s.setSwitches ws).txie = s.txie := rfl
@[simp] theorem State.setSwitches_sending (ws : List Switch) : (s.setSwitches ws).sending = s.sending := rfl
@[simp] theorem State.setSwitches_sat (ws : List Switch) : (s.setSwitches ws).sat = s.sat := rfl
@[simp] theorem State.setSwitches_resp (ws : List Switch) : (s.setSwitches ws).resp = s.resp := rfl
@[simp] theorem State.setSwitches_evtLog (ws : List Switch) : (s.setSwitches ws).evtLog = s.evtLog := rfl
@[simp] theorem State.setSwitches_capLog2 (ws : List Switch) : (s.setSwitches ws).capLog2 = s.capLog2 := rfl
@[simp] theorem State.setSwitches_satThreshold (ws : List Switch) : (s.setSwitches ws).satThreshold = s.satThreshold := rfl
@[simp] theorem State.setSwitches_priority (ws : List Switch) : (s.setSwitches ws).priority = s.priority := rfl
@[simp] theorem State.setSwitches_trace (ws : List Switch) : (s.setSwitches ws).trace = s.trace := rfl
@[simp] theorem State.setSwitches_cap (ws : List Switch) : (s.setSwitches ws).cap = s.cap := rfl
@[simp] theorem State.setSwitches_count (ws : List Switch) : (s.setSwitches ws).count = s.count := rfl

/-! ### `emit` -/

@[simp] theorem State.emit_switches (es : List Event) : (s.emit es).switches = s.switches := rfl
@[simp] theorem State.emit_pollEn (es : List Event) : (s.emit es).pollEn = s.pollEn := rfl
@[simp] theorem State.emit_txbuf (es : List Event) : (s.emit es).txbuf = s.txbuf := rfl
@[simp] theorem State.emit_eqIdx (es : List Event) : (s.emit es).eqIdx = s.eqIdx := rfl
@[simp] theorem State.emit_sdIdx (es : List Event) : (s.emit es).sdIdx = s.sdIdx := rfl
@[simp] theorem State.emit_txie (es : List Event) : (s.emit es).txie = s.txie := rfl
@[simp] theorem State.emit_sending (es : List Event) : (s.emit es).sending = s.sending := rfl
@[simp] theorem State.emit_sat (es : List Event) : (s.emit es).sat = s.sat := rfl
@[simp] theorem State.emit_resp (es : List Event) : (s.emit es).resp = s.resp := rfl
@[simp] theorem State.emit_evtLog (es : List Event) : (s.emit es).evtLog = s.evtLog ++ es := rfl
@[simp] theorem State.emit_capLog2 (es : List Event) : (s.emit es).capLog2 = s.capLog2 := rfl
@[simp] theorem State.emit_satThreshold (es : List Event) : (s.emit es).satThreshold = s.satThreshold := rfl
@[simp] theorem State.emit_priority (es : List Event) : (s.emit es).priority = s.priority := rfl
@[simp] theorem State.emit_trace (es : List Event) : (s.emit es).trace = s.trace := rfl
@[simp] theorem State.emit_cap (es : List Event) : (s.emit es).cap = s.cap := rfl
@[simp] theorem State.emit_count (es : List Event) : (s.emit es).count = s.count := rfl
@[simp] theorem State.emit_nSw (es : List Event) : (s.emit es).nSw = s.nSw := rfl
@[simp] theorem State.emit_config (es : List Event) : (s.emit es).config = s.config := rfl

/-! ### `setPollEn` -/

@[simp] theorem State.setPollEn_switches (b : Bool) : (s.setPollEn b).switches = s.switches := rfl
@[simp] theorem State.setPollEn_pollEn (b : Bool) : (s.setPollEn b).pollEn = b := rfl
@[simp] theorem State.setPollEn_txbuf (b : Bool) : (s.setPollEn b).txbuf = s.txbuf := rfl
@[simp] theorem State.setPollEn_eqIdx (b : Bool) : (s.setPollEn b).eqIdx = s.eqIdx := rfl
@[simp] theorem State.setPollEn_sdIdx (b : Bool) : (s.setPollEn b).sdIdx = s.sdIdx := rfl
@[simp] theorem State.setPollEn_txie (b : Bool) : (s.setPollEn b).txie = s.txie := rfl
@[simp] theorem State.setPollEn_sending (b : Bool) : (s.setPollEn b).sending = s.sending := rfl
@[simp] theorem State.setPollEn_sat (b : Bool) : (s.setPollEn b).sat = s.sat := rfl
@[simp] theorem State.setPollEn_resp (b : Bool) : (s.setPollEn b).resp = s.resp := rfl
@[simp] theorem State.setPollEn_evtLog (b : Bool) : (s.setPollEn b).evtLog = s.evtLog := rfl
@[simp] theorem State.setPollEn_capLog2 (b : Bool) : (s.setPollEn b).capLog2 = s.capLog2 := rfl
@[simp] theorem State.setPollEn_satThreshold (b : Bool) : (s.setPollEn b).satThreshold = s.satThreshold := rfl
@[simp] theorem State.setPollEn_priority (b : Bool) : (s.setPollEn b).priority = s.priority := rfl
@[simp] theorem State.setPollEn_trace (b : Bool) : (s.setPollEn b).trace = s.trace := rfl
@[simp] theorem State.setPollEn_cap (b : Bool) : (s.setPollEn b).cap = s.cap := rfl
@[simp] theorem State.setPollEn_count (b : Bool) : (s.setPollEn b).count = s.count := rfl
@[simp] theorem State.setPollEn_nSw (b : Bool) : (s.setPollEn b).nSw = s.nSw := rfl
@[simp] theorem State.setPollEn_config (b : Bool) : (s.setPollEn b).config = s.config := rfl

/-! ### `refreshPoll` -/

@[simp] theorem State.refreshPoll_switches : (s.refreshPoll).switches = s.switches := rfl
@[simp] theorem State.refreshPoll_pollEn : (s.refreshPoll).pollEn = pollNeeded s.switches := rfl
@[simp] theorem State.refreshPoll_txbuf : (s.refreshPoll).txbuf = s.txbuf := rfl
@[simp] theorem State.refreshPoll_eqIdx : (s.refreshPoll).eqIdx = s.eqIdx := rfl
@[simp] theorem State.refreshPoll_sdIdx : (s.refreshPoll).sdIdx = s.sdIdx := rfl
@[simp] theorem State.refreshPoll_txie : (s.refreshPoll).txie = s.txie := rfl
@[simp] theorem State.refreshPoll_sending : (s.refreshPoll).sending = s.sending := rfl
@[simp] theorem State.refreshPoll_sat : (s.refreshPoll).sat = s.sat := rfl
@[simp] theorem State.refreshPoll_resp : (s.refreshPoll).resp = s.resp := rfl
@[simp] theorem State.refreshPoll_evtLog : (s.refreshPoll).evtLog = s.evtLog := rfl
@[simp] theorem State.refreshPoll_capLog2 : (s.refreshPoll).capLog2 = s.capLog2 := rfl
@[simp] theorem State.refreshPoll_satThreshold : (s.refreshPoll).satThreshold = s.satThreshold := rfl
@[simp] theorem State.refreshPoll_priority : (s.refreshPoll).priority = s.priority := rfl
@[simp] theorem State.refreshPoll_trace : (s.refreshPoll).trace = s.trace := rfl
@[simp] theorem State.refreshPoll_cap : (s.refreshPoll).cap = s.cap := rfl
@[simp] theorem State.refreshPoll_count : (s.refreshPoll).count = s.count := rfl
@[simp] theorem State.refreshPoll_nSw : (s.refreshPoll).nSw = s.nSw := rfl
@[simp] theorem State.refreshPoll_config : (s.refreshPoll).config = s.config := rfl

/-! ### `setResp` -/

@[simp] theorem State.setResp_switches (v : Word) : (s.setResp v).switches = s.switches := rfl
@[simp] theorem State.setResp_pollEn (v : Word) : (s.setResp v).pollEn = s.pollEn := rfl
@[simp] theorem State.setResp_txbuf (v : Word) : (s.setResp v).txbuf = s.txbuf := rfl
@[simp] theorem State.setResp_eqIdx (v : Word) : (s.setResp v).eqIdx = s.eqIdx := rfl
@[simp] theorem State.setResp_sdIdx (v : Word) : (s.setResp v).sdIdx = s.sdIdx := rfl
@[simp] theorem State.setResp_txie (v : Word) : (s.setResp v).txie = s.txie := rfl
@[simp] theorem State.setResp_sending (v : Word) : (s.setResp v).sending = s.sending := rfl
@[simp] theorem State.setResp_sat (v : Word) : (s.setResp v).sat = s.sat := rfl
@[simp] theorem State.setResp_resp (v : Word) : (s.setResp v).resp = v := rfl
@[simp] theorem State.setResp_evtLog (v : Word) : (s.setResp v).evtLog = s.evtLog := rfl
@[simp] theorem State.setResp_capLog2 (v : Word) : (s.setResp v).capLog2 = s.capLog2 := rfl
@[simp] theorem State.setResp_satThreshold (v : Word) : (s.setResp v).satThreshold = s.satThreshold := rfl
@[simp] theorem State.setResp_priority (v : Word) : (s.setResp v).priority = s.priority := rfl
@[simp] theorem State.setResp_trace (v : Word) : (s.setResp v).trace = s.trace := rfl
@[simp] theorem State.setResp_cap (v : Word) : (s.setResp v).cap = s.cap := rfl
@[simp] theorem State.setResp_count (v : Word) : (s.setResp v).count = s.count := rfl
@[simp] theorem State.setResp_nSw (v : Word) : (s.setResp v).nSw = s.nSw := rfl
@[simp] theorem State.setResp_config (v : Word) : (s.setResp v).config = s.config := rfl

/-! ### `setSending` -/

@[simp] theorem State.setSending_switches (b : Bool) : (s.setSending b).switches = s.switches := rfl
@[simp] theorem State.setSending_pollEn (b : Bool) : (s.setSending b).pollEn = s.pollEn := rfl
@[simp] theorem State.setSending_txbuf (b : Bool) : (s.setSending b).txbuf = s.txbuf := rfl
@[simp] theorem State.setSending_eqIdx (b : Bool) : (s.setSending b).eqIdx = s.eqIdx := rfl
@[simp] theorem State.setSending_sdIdx (b : Bool) : (s.setSending b).sdIdx = s.sdIdx := rfl
@[simp] theorem State.setSending_txie (b : Bool) : (s.setSending b).txie = b := rfl
@[simp] theorem State.setSending_sending (b : Bool) : (s.setSending b).sending = b := rfl
@[simp] theorem State.setSending_sat (b : Bool) : (s.setSending b).sat = s.sat := rfl
@[simp] theorem State.setSending_resp (b : Bool) : (s.setSending b).resp = s.resp := rfl
@[simp] theorem State.setSending_evtLog (b : Bool) : (s.setSending b).evtLog = s.evtLog := rfl
@[simp] theorem State.setSending_capLog2 (b : Bool) : (s.setSending b).capLog2 = s.capLog2 := rfl
@[simp] theorem State.setSending_satThreshold (b : Bool) : (s.setSending b).satThreshold = s.satThreshold := rfl
@[simp] theorem State.setSending_priority (b : Bool) : (s.setSending b).priority = s.priority := rfl
@[simp] theorem State.setSending_trace (b : Bool) : (s.setSending b).trace = s.trace := rfl
@[simp] theorem State.setSending_cap (b : Bool) : (s.setSending b).cap = s.cap := rfl
@[simp] theorem State.setSending_count (b : Bool) : (s.setSending b).count = s.count := rfl
@[simp] theorem State.setSending_nSw (b : Bool) : (s.setSending b).nSw = s.nSw := rfl
@[simp] theorem State.setSending_config (b : Bool) : (s.setSending b).config = s.config := rfl

/-! ### `setSat` -/

@[simp] theorem State.setSat_switches (b : Bool) : (s.setSat b).switches = s.switches := rfl
@[simp] theorem State.setSat_pollEn (b : Bool) : (s.setSat b).pollEn = s.pollEn := rfl
@[simp] theorem State.setSat_txbuf (b : Bool) : (s.setSat b).txbuf = s.txbuf := rfl
@[simp] theorem State.setSat_eqIdx (b : Bool) : (s.setSat b).eqIdx = s.eqIdx := rfl
@[simp] theorem State.setSat_sdIdx (b : Bool) : (s.setSat b).sdIdx = s.sdIdx := rfl
@[simp] theorem State.setSat_txie (b : Bool) : (s.setSat b).txie = s.txie := rfl
@[simp] theorem State.setSat_sending (b : Bool) : (s.setSat b).sending = s.sending := rfl
@[simp] theorem State.setSat_sat (b : Bool) : (s.setSat b).sat = b := rfl
@[simp] theorem State.setSat_resp (b : Bool) : (s.setSat b).resp = s.resp := rfl
@[simp] theorem State.setSat_evtLog (b : Bool) : (s.setSat b).evtLog = s.evtLog := rfl
@[simp] theorem State.setSat_capLog2 (b : Bool) : (s.setSat b).capLog2 = s.capLog2 := rfl
@[simp] theorem State.setSat_satThreshold (b : Bool) : (s.setSat b).satThreshold = s.satThreshold := rfl
@[simp] theorem State.setSat_priority (b : Bool) : (s.setSat b).priority = s.priority := rfl
@[simp] theorem State.setSat_trace (b : Bool) : (s.setSat b).trace = s.trace := rfl
@[simp] theorem State.setSat_cap (b : Bool) : (s.setSat b).cap = s.cap := rfl
@[simp] theorem State.setSat_count (b : Bool) : (s.setSat b).count = s.count := rfl
@[simp] theorem State.setSat_nSw (b : Bool) : (s.setSat b).nSw = s.nSw := rfl
@[simp] theorem State.setSat_config (b : Bool) : (s.setSat b).config = s.config := rfl

/-! ### `storeByte` -/

@[simp] theorem State.storeByte_switches (b : Byte) : (s.storeByte b).switches = s.switches := rfl
@[simp] theorem State.storeByte_pollEn (b : Byte) : (s.storeByte b).pollEn = s.pollEn := rfl
@[simp] theorem State.storeByte_txbuf (b : Byte) : (s.storeByte b).txbuf = s.txbuf.write (s.slot s.eqIdx) b := rfl
@[simp] theorem State.storeByte_eqIdx (b : Byte) : (s.storeByte b).eqIdx = s.advance s.eqIdx := rfl
@[simp] theorem State.storeByte_sdIdx (b : Byte) : (s.storeByte b).sdIdx = s.sdIdx := rfl
@[simp] theorem State.storeByte_txie (b : Byte) : (s.storeByte b).txie = s.txie := rfl
@[simp] theorem State.storeByte_sending (b : Byte) : (s.storeByte b).sending = s.sending := rfl
@[simp] theorem State.storeByte_sat (b : Byte) : (s.storeByte b).sat = s.sat := rfl
@[simp] theorem State.storeByte_resp (b : Byte) : (s.storeByte b).resp = s.resp := rfl
@[simp] theorem State.storeByte_evtLog (b : Byte) : (s.storeByte b).evtLog = s.evtLog := rfl
@[simp] theorem State.storeByte_capLog2 (b : Byte) : (s.storeByte b).capLog2 = s.capLog2 := rfl
@[simp] theorem State.storeByte_satThreshold (b : Byte) : (s.storeByte b).satThreshold = s.satThreshold := rfl
@[simp] theorem State.storeByte_priority (b : Byte) : (s.storeByte b).priority = s.priority := rfl
@[simp] theorem State.storeByte_trace (b : Byte) : (s.storeByte b).trace = s.trace := rfl
@[simp] theorem State.storeByte_cap (b : Byte) : (s.storeByte b).cap = s.cap := rfl
@[simp] theorem State.storeByte_nSw (b : Byte) : (s.storeByte b).nSw = s.nSw := rfl
@[simp] theorem State.storeByte_config (b : Byte) : (s.storeByte b).config = s.config := rfl

/-! ### `advanceSd` -/

@[simp] theorem State.advanceSd_switches : (s.advanceSd).switches = s.switches := rfl
@[simp] theorem State.advanceSd_pollEn : (s.advanceSd).pollEn = s.pollEn := rfl
@[simp] theorem State.advanceSd_txbuf : (s.advanceSd).txbuf = s.txbuf := rfl
@[simp] theorem State.advanceSd_eqIdx : (s.advanceSd).eqIdx = s.eqIdx := rfl
@[simp] theorem State.advanceSd_sdIdx : (s.advanceSd).sdIdx = s.advance s.sdIdx := rfl
@[simp] theorem State.advanceSd_txie : (s.advanceSd).txie = s.txie := rfl
@[simp] theorem State.advanceSd_sending : (s.advanceSd).sending = s.sending := rfl
@[simp] theorem State.advanceSd_sat : (s.advanceSd).sat = s.sat := rfl
@[simp] theorem State.advanceSd_resp : (s.advanceSd).resp = s.resp := rfl
@[simp] theorem State.advanceSd_evtLog : (s.advanceSd).evtLog = s.evtLog := rfl
@[simp] theorem State.advanceSd_capLog2 : (s.advanceSd).capLog2 = s.capLog2 := rfl
@[simp] theorem State.advanceSd_satThreshold : (s.advanceSd).satThreshold = s.satThreshold := rfl
@[simp] theorem State.advanceSd_priority : (s.advanceSd).priority = s.priority := rfl
@[simp] theorem State.advanceSd_trace : (s.advanceSd).trace = s.trace := rfl
@[simp] theorem State.advanceSd_cap : (s.advanceSd).cap = s.cap := rfl
@[simp] theorem State.advanceSd_nSw : (s.advanceSd).nSw = s.nSw := rfl
@[simp] theorem State.advanceSd_config : (s.advanceSd).config = s.config := rfl

/-! ### `present` -/

@[simp] theorem State.present_switches (p : Presented) : (s.present p).switches = s.switches := rfl
@[simp] theorem State.present_pollEn (p : Presented) : (s.present p).pollEn = s.pollEn := rfl
@[simp] theorem State.present_txbuf (p : Presented) : (s.present p).txbuf = s.txbuf := rfl
@[simp] theorem State.present_eqIdx (p : Presented) : (s.present p).eqIdx = s.eqIdx := rfl
@[simp] theorem State.present_sdIdx (p : Presented) : (s.present p).sdIdx = s.sdIdx := rfl
@[simp] theorem State.present_txie (p : Presented) : (s.present p).txie = s.txie := rfl
@[simp] theorem State.present_sending (p : Presented) : (s.present p).sending = s.sending := rfl
@[simp] theorem State.present_sat (p : Presented) : (s.present p).sat = s.sat := rfl
@[simp] theorem State.present_resp (p : Presented) : (s.present p).resp = s.resp := rfl
@[simp] theorem State.present_evtLog (p : Presented) : (s.present p).evtLog = s.evtLog := rfl
@[simp] theorem State.present_capLog2 (p : Presented) : (s.present p).capLog2 = s.capLog2 := rfl
@[simp] theorem State.present_satThreshold (p : Presented) : (s.present p).satThreshold = s.satThreshold := rfl
@[simp] theorem State.present_priority (p : Presented) : (s.present p).priority = s.priority := rfl
@[simp] theorem State.present_trace (p : Presented) : (s.present p).trace = p :: s.trace := rfl
@[simp] theorem State.present_cap (p : Presented) : (s.present p).cap = s.cap := rfl
@[simp] theorem State.present_count (p : Presented) : (s.present p).count = s.count := rfl
@[simp] theorem State.present_nSw (p : Presented) : (s.present p).nSw = s.nSw := rfl
@[simp] theorem State.present_config (p : Presented) : (s.present p).config = s.config := rfl

end

end Sys2Proof.Machine
end

