-- ==== Sys2Proof/Laws/Debounce.lean ====
section
/-! SUPPORT. What the transition function and the two operations that apply it can do to one instance, and what a
tick does to the list of instances. -/

namespace Sys2Proof.Machine

/-- The compare of R100 in integers. -/
theorem expired_iff (c : Word) : expired c = true ↔ c.toInt ≤ 0 := by simp [expired]

/-- The decrement never wraps from a counter a run can hold (R102). -/
theorem decrement_toInt (c : Word) (h : -32768 < c.toInt) : (decrement c).toInt = c.toInt - 1 := by
  have hlt := BitVec.toInt_lt (x := c)
  rw [decrement, BitVec.toInt_sub]
  norm_num at hlt ⊢
  rw [Int.bmod_eq_of_le] <;> omega

/-- Everything one row of the state table can do (R100). -/
theorem dbstep_cases (i : Nat) (w : Switch) (l : Bool) :
    dbstep i w l = (w, [])
    ∨ (w.state = .expectHigh ∧ l = true ∧ dbstep i w l
        = ({ w with cnt := BitVec.ofNat 16 w.par.actBounce, state := .validateHigh }, []))
    ∨ (w.state = .validateHigh ∧ l = true ∧ expired (decrement w.cnt) = false ∧ dbstep i w l
        = ({ w with cnt := decrement w.cnt }, []))
    ∨ (w.state = .validateHigh ∧ l = true ∧ expired (decrement w.cnt) = true ∧ dbstep i w l
        = ({ w with cnt := decrement w.cnt, state := .expectLow, out := true }, [.act i]))
    ∨ (w.state = .validateHigh ∧ l = false ∧ dbstep i w l = ({ w with state := .expectHigh }, []))
    ∨ (w.state = .expectLow ∧ l = false ∧ dbstep i w l
        = ({ w with cnt := BitVec.ofNat 16 w.par.deactBounce, state := .validateLow }, []))
    ∨ (w.state = .validateLow ∧ l = false ∧ expired (decrement w.cnt) = false ∧ dbstep i w l
        = ({ w with cnt := decrement w.cnt }, []))
    ∨ (w.state = .validateLow ∧ l = false ∧ expired (decrement w.cnt) = true ∧ dbstep i w l
        = ({ w with cnt := decrement w.cnt, state := .expectHigh, out := false }, [.deact i]))
    ∨ (w.state = .validateLow ∧ l = true ∧ dbstep i w l = ({ w with state := .expectLow }, [])) := by
  unfold dbstep
  cases hc : expired (decrement w.cnt) <;> cases h : w.state <;> cases l <;> simp

/-- A row of the table writes neither the parameters, the line nor the pending bit. -/
theorem dbstep_frame (i : Nat) (w : Switch) (l : Bool) :
    (dbstep i w l).1.par = w.par ∧ (dbstep i w l).1.line = w.line
      ∧ (dbstep i w l).1.edgePend = w.edgePend := by
  rcases dbstep_cases i w l with h | ⟨_, _, h⟩ | ⟨_, _, _, h⟩ | ⟨_, _, _, h⟩ | ⟨_, _, h⟩ | ⟨_, _, h⟩
    | ⟨_, _, _, h⟩ | ⟨_, _, _, h⟩ | ⟨_, _, h⟩ <;> simp [h]

@[simp] theorem dbstep_par (i : Nat) (w : Switch) (l : Bool) : (dbstep i w l).1.par = w.par :=
  (dbstep_frame i w l).1

@[simp] theorem dbstep_line (i : Nat) (w : Switch) (l : Bool) : (dbstep i w l).1.line = w.line :=
  (dbstep_frame i w l).2.1

@[simp] theorem dbstep_edgePend (i : Nat) (w : Switch) (l : Bool) :
    (dbstep i w l).1.edgePend = w.edgePend :=
  (dbstep_frame i w l).2.2

@[simp] theorem tickSwitch_par (i : Nat) (w : Switch) : (tickSwitch i w).1.par = w.par := by
  unfold tickSwitch; split <;> simp

@[simp] theorem edgeSwitch_par (i : Nat) (w : Switch) : (edgeSwitch i w).1.par = w.par := by
  unfold edgeSwitch; split <;> simp

@[simp] theorem inputSwitch_par (w : Switch) (v : Bool) : (inputSwitch w v).par = w.par := by
  unfold inputSwitch; split <;> simp

@[simp] theorem tickSwitch_edgePend (i : Nat) (w : Switch) :
    (tickSwitch i w).1.edgePend = w.edgePend := by
  unfold tickSwitch; split <;> simp

@[simp] theorem edgeSwitch_edgePend (i : Nat) (w : Switch) : (edgeSwitch i w).1.edgePend = false := by
  unfold edgeSwitch; split <;> simp

/-- An Expect row emits nothing, so the edge service emits nothing (R106). -/
@[simp] theorem edgeSwitch_events (i : Nat) (w : Switch) : (edgeSwitch i w).2 = [] := by
  unfold edgeSwitch dbstep
  cases h : w.state <;> simp [Switch.validating, Fsm.validating, h] <;> split <;> rfl

/-- An instance in an Expect state is not touched by a tick (R107). -/
theorem tickSwitch_of_not_validating (i : Nat) (w : Switch) (h : w.validating = false) :
    tickSwitch i w = (w, []) := by
  simp [tickSwitch, h]

@[simp] theorem tickAll_length (i : Nat) (ws : List Switch) : (tickAll i ws).1.length = ws.length := by
  induction ws generalizing i with
  | nil => rfl
  | cons w ws ih => simp [tickAll, ih]

/-- A tick does to each instance what it does to that instance alone (R109). -/
theorem tickAll_get (i j : Nat) (ws : List Switch) :
    (tickAll i ws).1[j]? = (ws[j]?).map (fun w => (tickSwitch (i + j) w).1) := by
  induction ws generalizing i j with
  | nil => simp [tickAll]
  | cons w ws ih =>
    cases j with
    | zero => simp [tickAll]
    | succ j =>
      simp only [tickAll, List.getElem?_cons_succ, ih]
      rw [show i + 1 + j = i + (j + 1) by omega]

/-- A tick keeps every instance's parameters. -/
@[simp] theorem tickAll_par (i : Nat) (ws : List Switch) :
    (tickAll i ws).1.map Switch.par = ws.map Switch.par := by
  induction ws generalizing i with
  | nil => rfl
  | cons w ws ih => simp [tickAll, ih]

/-- Writing an instance with the same parameters keeps the list of parameters. -/
theorem map_par_set (ws : List Switch) (i : Nat) (w w' : Switch) (h : ws[i]? = some w)
    (hp : w'.par = w.par) : (ws.set i w').map Switch.par = ws.map Switch.par := by
  rw [List.map_set, hp]
  apply List.ext_getElem?
  intro j
  rw [List.getElem?_set]
  split
  · subst j
    simp only [List.length_map, List.getElem?_map, h, Option.map_some]
    rw [if_pos (List.getElem?_eq_some_iff.1 h).1]
  · rfl

end Sys2Proof.Machine
end

