-- ==== Sys2Proof/Laws/Memory.lean ====
section
/-! SUPPORT. The storage TXBUF: a read after a write, the canonical form and its uniqueness, the address bound. -/

namespace Sys2Proof.Machine

@[simp] theorem Memory.read_nil (a : Nat) : Memory.read [] a = 0#8 := rfl

theorem Memory.read_cons (c : Host.Cell) (m : Memory) (a : Nat) :
    Memory.read (c :: m) a = if c.1 = a then c.2 else Memory.read m a := rfl

/-- Below a bound that every listed address exceeds, a read finds nothing. -/
theorem Memory.read_of_wfAbove {m : Memory} {l a : Nat} (h : Memory.wfAbove (some l) m = true)
    (ha : a ≤ l) : m.read a = 0#8 := by
  induction m generalizing l with
  | nil => rfl
  | cons c m ih =>
    simp only [Memory.wfAbove, Bool.and_eq_true, decide_eq_true_eq] at h
    rw [Memory.read_cons, if_neg (by omega)]
    exact ih h.2 (by omega)

theorem Memory.wfAbove_mono {m : Memory} {lo : Option Nat} (h : Memory.wfAbove lo m = true) :
    m.wf = true := by
  cases m with
  | nil => rfl
  | cons c m => simp_all [Memory.wf, Memory.wfAbove]

/-- A read after a write to the same index gives the byte written. -/
theorem Memory.read_write_same (m : Memory) (lo : Option Nat) (h : Memory.wfAbove lo m = true)
    (a : Nat) (v : Byte) : (m.write a v).read a = v := by
  induction m generalizing lo with
  | nil =>
    unfold Memory.write
    split <;> simp_all [Memory.read_cons]
  | cons c m ih =>
    simp only [Memory.wfAbove, Bool.and_eq_true] at h
    unfold Memory.write
    split
    · rw [Memory.read_cons, if_neg (by omega)]
      exact ih _ h.2
    · split
      · split
        · rename_i hv
          rw [hv]
          exact Memory.read_of_wfAbove h.2 (by omega)
        · simp [Memory.read_cons]
      · split
        · rename_i hv
          rw [hv, Memory.read_cons, if_neg (by omega)]
          exact Memory.read_of_wfAbove h.2 (by omega)
        · simp [Memory.read_cons]

/-- A write leaves every other index alone. -/
theorem Memory.read_write_other (m : Memory) {a a' : Nat} (v : Byte) (h : a' ≠ a) :
    (m.write a v).read a' = m.read a' := by
  induction m with
  | nil =>
    unfold Memory.write
    split
    · rfl
    · simp [Memory.read_cons, Ne.symm h]
  | cons c m ih =>
    unfold Memory.write
    split
    · simp [Memory.read_cons, ih]
    · split
      · split
        · rw [Memory.read_cons, if_neg (by omega)]
        · simp only [Memory.read_cons]
          rw [if_neg (by omega), if_neg (by omega)]
      · split
        · rfl
        · rw [Memory.read_cons, if_neg (by simpa using Ne.symm h)]

/-- A write keeps the canonical form, above any bound below the index written. -/
theorem Memory.write_wfAbove (m : Memory) (lo : Option Nat) (h : Memory.wfAbove lo m = true)
    (a : Nat) (v : Byte) (ha : ∀ l, lo = some l → l < a) : Memory.wfAbove lo (m.write a v) = true := by
  induction m generalizing lo with
  | nil =>
    unfold Memory.write
    split
    · rfl
    · cases lo <;> simp_all [Memory.wfAbove]
  | cons c m ih =>
    have hc := h
    simp only [Memory.wfAbove, Bool.and_eq_true] at h
    unfold Memory.write
    split
    · simp only [Memory.wfAbove, Bool.and_eq_true]
      refine ⟨h.1, ih _ h.2 ?_⟩
      rintro l ⟨⟩
      assumption
    · split
      · rename_i heq
        subst heq
        split
        · cases lo with
          | none => exact Memory.wfAbove_mono h.2
          | some l =>
            cases m with
            | nil => rfl
            | cons d m =>
              have := ha l rfl
              simp only [Memory.wfAbove, Bool.and_eq_true, decide_eq_true_eq] at h ⊢
              exact ⟨⟨by omega, h.2.1.2⟩, h.2.2⟩
        · simp only [Memory.wfAbove, Bool.and_eq_true]
          exact ⟨⟨h.1.1, by simpa using ‹_›⟩, h.2⟩
      · split
        · exact hc
        · have hlt : a < c.1 := by omega
          cases lo with
          | none => simp_all [Memory.wfAbove]
          | some l =>
            have := ha l rfl
            simp_all [Memory.wfAbove]

/-- A write keeps the canonical form. -/
theorem Memory.write_wf (m : Memory) (h : m.wf = true) (a : Nat) (v : Byte) :
    (m.write a v).wf = true :=
  Memory.write_wfAbove m none h a v (by simp)

/-- A read after a write, in a storage of canonical form. -/
theorem Memory.read_write (m : Memory) (h : m.wf = true) (a a' : Nat) (v : Byte) :
    (m.write a v).read a' = if a' = a then v else m.read a' := by
  split
  · subst a'; exact Memory.read_write_same m none h a v
  · exact Memory.read_write_other m v ‹_›

/-- A write lists no index outside the ones listed before and the one written. -/
theorem Memory.mem_write {m : Memory} {a : Nat} {v : Byte} {c : Host.Cell}
    (h : c ∈ m.write a v) : c ∈ m ∨ c.1 = a := by
  induction m with
  | nil =>
    unfold Memory.write at h
    split at h <;> simp_all
  | cons d m ih =>
    unfold Memory.write at h
    split at h
    · rcases List.mem_cons.1 h with rfl | h
      · simp
      · rcases ih h with h | h
        · simp [h]
        · exact .inr h
    · split at h
      · split at h
        · simp [h]
        · rcases List.mem_cons.1 h with rfl | h
          · simp
          · simp [h]
      · split at h
        · exact .inl h
        · rcases List.mem_cons.1 h with rfl | h
          · simp
          · exact .inl h

/-- A write below a bound keeps every listed index below it. -/
theorem Memory.write_lt {m : Memory} {n a : Nat} {v : Byte} (h : ∀ c ∈ m, c.1 < n) (ha : a < n) :
    ∀ c ∈ m.write a v, c.1 < n := by
  intro c hc
  rcases Memory.mem_write hc with h' | h'
  · exact h c h'
  · omega

end Sys2Proof.Machine
end

