-- ==== Sys2Proof/Laws/Transmit.lean ====
section
/-! SUPPORT. The indices of the storage and the count of unsent bytes (R33, R34, R35). -/

namespace Sys2Proof.Machine

theorem State.cap_pos (s : State) : 0 < s.cap := Nat.two_pow_pos _

theorem State.advance_lt (s : State) (x : Nat) : s.advance x < s.cap :=
  Nat.mod_lt _ s.cap_pos

theorem State.slot_lt (s : State) (x : Nat) : s.slot x < s.cap := Nat.mod_lt _ s.cap_pos

theorem State.slot_of_lt (s : State) {x : Nat} (h : x < s.cap) : s.slot x = x := Nat.mod_eq_of_lt h

/-- `COUNT` lies in `0 .. CAP-1` (R35). -/
theorem State.count_lt (s : State) : s.count < s.cap := by
  have hc := s.cap_pos
  have h := Int.emod_lt_of_pos ((s.eqIdx : Int) - s.sdIdx) (b := s.cap) (by omega)
  have h0 := Int.emod_nonneg ((s.eqIdx : Int) - s.sdIdx) (b := s.cap) (by omega)
  unfold State.count
  omega

/-- `COUNT` of two K-bit indices, as a difference that wraps once at most. -/
theorem State.count_eq (s : State) (he : s.eqIdx < s.cap) (hs : s.sdIdx < s.cap) :
    s.count = if s.sdIdx ≤ s.eqIdx then s.eqIdx - s.sdIdx else s.eqIdx + s.cap - s.sdIdx := by
  unfold State.count
  split
  · rw [Int.emod_eq_of_lt (by omega) (by omega)]
    omega
  · rw [← Int.add_emod_right, Int.emod_eq_of_lt (by omega) (by omega)]
    omega

/-- An index one further, as a difference that wraps once at most. -/
theorem State.advance_eq (s : State) {x : Nat} (h : x < s.cap) :
    s.advance x = if x + 1 = s.cap then 0 else x + 1 := by
  unfold State.advance
  split
  · rename_i h'
    rw [h', Nat.mod_self]
  · exact Nat.mod_eq_of_lt (by omega)

end Sys2Proof.Machine
end

