-- ==== Sys2Proof/Laws/Exec.lean ====
section
/-! SUPPORT. One inversion lemma per meaning that has a choice, and one for the step: if it answers a next state,
then one of these cases holds. -/

namespace Sys2Proof.Machine

/-- No status register shows RESP. -/
@[simp] theorem State.reg_setResp (s : State) (v : Word) (r : BitVec 8) :
    (s.setResp v).reg r = s.reg r := rfl

theorem assignedReg_iff (nSw : Nat) (r : BitVec 8) : assignedReg nSw r = true ↔
    r.toNat ∈ [0x00, 0x01, 0x02, 0x03, 0x04, 0x05, 0x08]
      ∨ (0x10 ≤ r.toNat ∧ r.toNat < 0x10 + 4 * nSw) := by
  simp [assignedReg]

/-- An assigned register number is one that R40 gives a value (R182). -/
theorem State.reg_isSome (s : State) (r : BitVec 8) : (s.reg r).isSome = assignedReg s.nSw r := by
  rw [Bool.eq_iff_iff, assignedReg_iff]
  unfold State.reg
  split
  case h_8 n h0 h1 h2 h3 h4 h5 h8 =>
    have hlist : r.toNat ∉ [0x00, 0x01, 0x02, 0x03, 0x04, 0x05, 0x08] := by
      simp only [List.mem_cons, List.not_mem_nil, or_false, not_or]
      exact ⟨h0, h1, h2, h3, h4, h5, h8⟩
    by_cases h : 16 ≤ r.toNat
    · cases hw : s.switches[(r.toNat - 16) / 4]? with
      | none =>
        have := List.getElem?_eq_none_iff.1 hw
        have hn : ¬ r.toNat < 16 + 4 * s.nSw := by
          unfold State.nSw
          omega
        simp [h, hlist, hn]
      | some w =>
        have := (List.getElem?_eq_some_iff.1 hw).1
        have hn : r.toNat < 16 + 4 * s.nSw := by
          unfold State.nSw
          omega
        simp [h, hn]
    · simp [h, hlist]
  all_goals
    rename_i h
    simp [h]

theorem execInput_cases {i : BitVec 4} {v : Bool} {s t : State} (h : execInput i v s = .next t) :
    (∃ w, s.switches[i.toNat]? = some w ∧ t = s.setSwitch i.toNat (inputSwitch w v))
      ∨ (s.switches[i.toNat]? = none ∧ t = s) := by
  unfold execInput at h
  cases hw : s.switches[i.toNat]? <;> simp_all

theorem execEdge_cases {i : BitVec 4} {s t : State} (h : execEdge i s = .next t) :
    (∃ w, s.switches[i.toNat]? = some w ∧ w.edgePend = true ∧ t = s.serviceEdge i.toNat w)
      ∨ (s.edgePending i.toNat = false ∧ t = s) := by
  unfold execEdge at h
  unfold State.edgePending
  cases hw : s.switches[i.toNat]? with
  | none => simp_all
  | some w => cases he : w.edgePend <;> simp_all

theorem execTick_cases {s t : State} (h : execTick s = .next t) :
    (s.pollEn = true ∧ t = s.tick) ∨ (s.pollEn = false ∧ t = s) := by
  unfold execTick at h
  cases hp : s.pollEn <;> simp_all

theorem execTxdone_cases {s t : State} (h : execTxdone s = .next t) :
    (s.txie = true ∧ s.sdIdx = s.eqIdx ∧ t = s.setSending false)
      ∨ (s.txie = true ∧ s.sdIdx ≠ s.eqIdx ∧ t = (s.emit [.txbyte s.byteAtSd]).advanceSd)
      ∨ (s.txie = false ∧ t = s) := by
  unfold execTxdone State.transmitNext at h
  cases hp : s.txie <;> by_cases he : s.sdIdx = s.eqIdx <;> simp_all

theorem execRdlvl_cases {i : BitVec 4} {s t : State} (h : execRdlvl i s = .next t) :
    (∃ w, s.switches[i.toNat]? = some w ∧ t = s.setResp (zext1 w.out))
      ∨ (s.switches[i.toNat]? = none ∧ t = s) := by
  unfold execRdlvl at h
  cases hw : s.switches[i.toNat]? <;> simp_all

theorem execRdreg_cases {r : BitVec 8} {s t : State} (h : execRdreg r s = .next t) :
    (∃ v, s.reg r = some v ∧ t = s.setResp v) ∨ (s.reg r = none ∧ t = s) := by
  unfold execRdreg at h
  cases hv : s.reg r <;> simp_all

/-- Everything one step can do (R11, R183, R203). -/
theorem step_cases {s t : State} (h : step s = .next t) :
    s.config.wf = true ∧
    ((s.trace = [] ∧ t = s)
      ∨ ∃ p rest, s.trace = p :: rest
        ∧ ((decode s.nSw p.port p.word = none ∧ t = { s with trace := rest })
          ∨ ∃ i, decode s.nSw p.port p.word = some i
            ∧ ((({ s with trace := rest } : State).admits i = false ∧ t = { s with trace := rest })
              ∨ (({ s with trace := rest } : State).admits i = true
                ∧ exec i { s with trace := rest } = .next t)))) := by
  unfold step at h
  split at h
  · rename_i hwf
    refine ⟨hwf, ?_⟩
    unfold State.takeWord at h
    cases ht : s.trace with
    | nil =>
      simp only [ht] at h
      exact .inl ⟨rfl, by injection h with h; exact h.symm⟩
    | cons p rest =>
      simp only [ht] at h
      refine .inr ⟨p, rest, rfl, ?_⟩
      have hn : ({ s with trace := rest } : State).nSw = s.nSw := rfl
      rw [hn] at h
      cases hd : decode s.nSw p.port p.word with
      | none =>
        simp only [hd, execReserved] at h
        injection h with h
        exact .inl ⟨rfl, h.symm⟩
      | some i =>
        simp only [hd] at h
        refine .inr ⟨i, rfl, ?_⟩
        split at h
        · rename_i ha
          exact .inr ⟨ha, h⟩
        · rename_i ha
          simp only [notTaken] at h
          injection h with h
          exact .inl ⟨by simpa using ha, h.symm⟩
  · cases h

end Sys2Proof.Machine
end

