-- ==== Sys2Proof/Laws/Invariant.lean ====
section
/-! SUPPORT. The invariant as a check that computes, and runs one step at a time. -/

namespace Sys2Proof.Machine

/-- `Switch.Inv` as a check. -/
def Switch.invCheck (w : Switch) : Bool :=
  w.out == w.state.bits.getLsbD 1 && decide (-1 ≤ w.cnt.toInt)
    && (!w.validating || (decide (0 ≤ w.cnt.toInt) && decide (w.cnt.toInt ≤ w.seed)))
    && (!w.validating || !decide (w.cnt.toInt = 0) || decide (w.seed = 0))

/-- `Inv` as a check. -/
def State.invCheck (s : State) : Bool :=
  s.config.wf && decide (s.eqIdx < s.cap) && decide (s.sdIdx < s.cap) && s.txbuf.wf
    && s.txbuf.all (fun c => decide (c.1 < s.cap)) && s.switches.all Switch.invCheck
    && s.pollEn == pollNeeded s.switches

theorem Switch.inv_of_check {w : Switch} (h : w.invCheck = true) : w.Inv := by
  simp only [Switch.invCheck, Bool.and_eq_true, Bool.or_eq_true, beq_iff_eq, decide_eq_true_eq,
    Bool.not_eq_true', decide_eq_false_iff_not] at h
  obtain ⟨⟨⟨hout, hge⟩, hle⟩, hz⟩ := h
  refine ⟨hout, hge, fun hv => ?_, fun hv h0 => ?_⟩
  · simpa [hv] using hle
  · simpa [hv, h0] using hz

/-- A state that passes the check satisfies the invariant. -/
theorem inv_of_check {s : State} (h : s.invCheck = true) : Inv s := by
  simp only [State.invCheck, Bool.and_eq_true, beq_iff_eq, decide_eq_true_eq, List.all_eq_true] at h
  obtain ⟨⟨⟨⟨⟨⟨hc, he⟩, hs⟩, hb⟩, hl⟩, hw⟩, hp⟩ := h
  exact ⟨hc, he, hs, hb, hl, fun w m => Switch.inv_of_check (hw w m), hp⟩

@[simp] theorem Along_nil (ok : State → Instr → Prop) (s : State) : Along ok [] s := trivial

/-- A run whose first operation answers `t` goes on from `t`. -/
theorem Along_cons {ok : State → Instr → Prop} {i : Instr} {is : List Instr} {s t : State}
    (h : exec i s = .next t) : Along ok (i :: is) s ↔ ok s i ∧ Along ok is t := by
  simp [Along, h]

@[simp] theorem execAll_nil (s : State) : execAll [] s = .next s := rfl

theorem execAll_cons {i : Instr} {is : List Instr} {s t : State} (h : exec i s = .next t) :
    execAll (i :: is) s = execAll is t := by
  simp [execAll, h]

end Sys2Proof.Machine
end

