-- ==== Sys2Proof/Laws/PerInstr.lean ====
section
/-! SUPPORT. Facts about every operation as syntax, one lemma per constructor. -/

namespace Sys2Proof.Laws.WordClass

/-- The class of an operation's word shows in its top bit: `OPC` 0x0 to 0x4 are command words, 0x8 to 0xB
event words (R83). -/
def Statement (i : Instr) : Prop := portOfWord (encode i) = i.port

theorem nop : Statement .nop := by
  unfold Statement; decide
theorem enqb (b : Byte) : Statement (.enqb b) := by
  unfold Statement; revert b; decide
theorem stsend : Statement .stsend := by
  unfold Statement; decide
theorem rdlvl (i : BitVec 4) : Statement (.rdlvl i) := by
  unfold Statement; revert i; decide
theorem rdreg (r : BitVec 8) : Statement (.rdreg r) := by
  unfold Statement; revert r; decide
theorem input (i : BitVec 4) (v : Bool) : Statement (.input i v) := by
  unfold Statement; revert i v; decide
theorem edge (i : BitVec 4) : Statement (.edge i) := by
  unfold Statement; revert i; decide
theorem tick : Statement .tick := by
  unfold Statement; decide
theorem txdone : Statement .txdone := by
  unfold Statement; decide

end Sys2Proof.Laws.WordClass
end

