-- ==== Sys2Proof/Tests/Slice0.lean ====
section
/-! SUPPORT. Tests. Expected values come from the tables of 95_test_vectors.md and the examples of 30_encoding.md,
named in each comment, not from the model. -/

namespace Sys2Proof.Tests

open Sys2Proof.Machine

/-! ### Well-formedness: a term each check refuses (R7, R84, R86) -/

theorem test_wf_rdlvl_refused : (Instr.rdlvl 2#4).wf 2 = false := by decide
theorem test_wf_rdreg_gap_refused : (Instr.rdreg 0x06#8).wf 2 = false := by decide
theorem test_wf_rdreg_bound : (Instr.rdreg 0x18#8).wf 2 = false ∧ (Instr.rdreg 0x17#8).wf 2 = true := by
  decide
theorem test_wf_input_refused : (Instr.input 2#4 true).wf 2 = false := by decide
theorem test_wf_edge_refused : (Instr.edge 15#4).wf 15 = false := by decide
theorem test_wf_accepts : [Instr.nop, .enqb 255#8, .stsend, .rdlvl 1#4, .rdreg 0#8, .input 0#4 false,
    .edge 1#4, .tick, .txdone].all (Instr.wf 2) = true := by decide

/-- A configuration with one instance's parameters, `K` and threshold given. -/
def oneSwitch (act deact k thr : Nat) : Config := ⟨[⟨false, act, deact, false⟩], k, thr, false⟩

theorem test_config_bounds_accepted : (oneSwitch 32767 32767 15 32767).wf = true
    ∧ (oneSwitch 0 0 1 1).wf = true := by decide
theorem test_config_actBounce_refused : (oneSwitch 32768 0 3 0).wf = false := by decide
theorem test_config_deactBounce_refused : (oneSwitch 0 32768 3 0).wf = false := by decide
theorem test_config_capLog2_low_refused : (oneSwitch 0 0 0 0).wf = false := by decide
theorem test_config_capLog2_high_refused : (oneSwitch 0 0 16 0).wf = false := by decide
theorem test_config_threshold_refused : (oneSwitch 0 0 3 8).wf = false := by decide
theorem test_config_no_switch_refused : (⟨[], 3, 0, false⟩ : Config).wf = false := by decide
theorem test_config_17_switches_refused :
    (⟨List.replicate 17 ⟨false, 0, 0, false⟩, 3, 0, false⟩ : Config).wf = false := by decide

/-! ### Decoding: words written out from the patterns of R84 (30_encoding.md) -/

theorem test_decode_nop : decode 2 .cmd 0b0000_0000_0000_0000#16 = some .nop := by decide
theorem test_decode_enqb : decode 2 .cmd 0b0001_0000_0100_0001#16 = some (.enqb 0x41#8) := by decide
theorem test_decode_stsend : decode 2 .cmd 0b0010_0000_0000_0000#16 = some .stsend := by decide
theorem test_decode_rdlvl : decode 2 .cmd 0b0011_0001_0000_0000#16 = some (.rdlvl 1#4) := by decide
theorem test_decode_rdreg : decode 2 .cmd 0b0100_0000_0001_0001#16 = some (.rdreg 0x11#8) := by decide
theorem test_decode_input : decode 2 .evt 0b1000_0001_0000_0001#16 = some (.input 1#4 true) := by decide
theorem test_decode_edge : decode 2 .evt 0b1001_0001_0000_0000#16 = some (.edge 1#4) := by decide
theorem test_decode_tick : decode 2 .evt 0b1010_0000_0000_0000#16 = some .tick := by decide
theorem test_decode_txdone : decode 2 .evt 0b1011_0000_0000_0000#16 = some .txdone := by decide

/-- C-2 to C-12 and L-3 of 95_test_vectors.md: reserved words. -/
theorem test_decode_reserved :
    (([0x0001#16, 0x1100#16, 0x2001#16, 0x5000#16, 0xF123#16, 0xA000#16, 0x4006#16, 0x4018#16,
        0x3200#16] : List Word).all (fun w => (decode 2 .cmd w).isNone)) = true
      ∧ (([0x1041#16, 0x8003#16, 0x8200#16] : List Word).all (fun w => (decode 2 .evt w).isNone)) = true
      ∧ decode 2 .cmd 0x4017#16 = some (.rdreg 0x17#8) := by decide

/-- P-1 of 95_test_vectors.md. -/
theorem test_assemble_enq16le : assemble 2 ("enq16le 0x1234".toList.map Char.toNat)
    = some [0x1034#16, 0x1012#16, 0x2000#16] := by decide
/-- R89: an operand out of its range is refused. -/
theorem test_assemble_refuses : assemble 2 ("ENQB 256".toList.map Char.toNat) = none
    ∧ assemble 2 ("RDLVL 2".toList.map Char.toNat) = none
    ∧ assemble 2 ("INPUT 1, 1".toList.map Char.toNat) = some [0x8101#16] := by decide

/-! ### One step of each operation -/

/-- Two instances with `ACT_BOUNCE = 3`, `DEACT_BOUNCE = 2` (section 2.1 of 95_test_vectors.md), `K = 2`,
threshold 2 (section 2.5). -/
def cfg : Config := ⟨[⟨false, 3, 2, false⟩, ⟨false, 3, 2, false⟩], 2, 2, false⟩

/-- The reset state of `cfg`. -/
def start : State := State.resetOf cfg

/-- An instance of `cfg` in a given state. -/
def sw (st : Fsm) (line out ep : Bool) (cnt : Word) : Switch := ⟨⟨false, 3, 2, false⟩, st, line, out, ep, cnt⟩

/-- `start` with its two instances and `POLL_EN` given. -/
def withSw (w0 w1 : Switch) (poll : Bool) : State := { start with switches := [w0, w1], pollEn := poll }

/-- The next state of an operation, for looking at its fields. -/
def after (i : Instr) (s : State) : Option State :=
  match exec i s with
  | .next t => some t
  | .fault _ => none
  | .refused _ => none

/-- C-1. -/
theorem test_nop : after .nop start = some start := by decide
/-- The example of R140 (vector X-1's COUNT differs from R35, log entry 11). -/
theorem test_enqb_wraps : (after (.enqb 0x41#8) { start with capLog2 := 3, eqIdx := 7, sdIdx := 2 }).map
    (fun t => (t.txbuf, t.eqIdx, t.count)) = some ([(7, 0x41#8)], 0, 6) := by decide
/-- X-2. -/
theorem test_enqb_overflow : (after (.enqb 0x66#8) { start with eqIdx := 0, sdIdx := 1 }).map
    (fun t => (t.txbuf, t.eqIdx, t.count)) = some ([(0, 0x66#8)], 1, 0) := by decide
/-- X-3. -/
theorem test_stsend_at_threshold : (after .stsend { start with eqIdx := 2, sat := true }).map
    (fun t => (t.txie, t.sending, t.sat)) = some (true, true, false) := by decide
/-- X-4. -/
theorem test_stsend_above_threshold : (after .stsend { start with eqIdx := 3 }).map
    (fun t => (t.txie, t.sending, t.sat)) = some (true, true, true) := by decide
/-- X-10. -/
theorem test_txdone_sends : (after .txdone
      { start with sdIdx := 3, eqIdx := 1, txbuf := [(3, 0x77#8)], txie := true }).map
    (fun t => (t.evtLog, t.sdIdx, t.txie)) = some ([.txbyte 0x77#8], 0, true) := by decide
/-- X-7. -/
theorem test_txdone_drained : (after .txdone
      { start with sdIdx := 2, eqIdx := 2, txie := true, sending := true }).map
    (fun t => (t.evtLog, t.txie, t.sending)) = some ([], false, false) := by decide
/-- L-1. -/
theorem test_rdlvl : (after (.rdlvl 1#4)
      (withSw (sw .expectHigh false false false 0#16) (sw .expectLow true true false 0#16) false)).map
    State.resp = some 0x0001#16 := by decide
/-- C-15. -/
theorem test_rdreg_dbstat : (after (.rdreg 0x08#8) { start with pollEn := true }).map State.resp
    = some 0x0201#16 := by decide
/-- C-16. -/
theorem test_rdreg_swstat : (after (.rdreg 0x10#8)
      (State.resetOf ⟨[⟨true, 3, 2, true⟩, ⟨false, 3, 2, false⟩], 3, 4, false⟩)).map State.resp
    = some 0x0060#16 := by decide
/-- I-4. -/
theorem test_input_edge : (after (.input 1#4 true) start).map (fun t => t.switches.drop 1)
    = some [sw .expectHigh true false true 0#16] := by decide
/-- I-2. -/
theorem test_input_same_level : after (.input 0#4 false) start = some start := by decide
/-- D-1. -/
theorem test_edge_arms : (after (.edge 0#4)
      (withSw (sw .expectHigh true false true 0#16) (sw .expectHigh false false false 0#16) false)).map
    (fun t => (t.switches.take 1, t.pollEn)) = some ([sw .validateHigh true false false 3#16], true) := by
  decide
/-- D-14. -/
theorem test_edge_while_validating : (after (.edge 0#4)
      (withSw (sw .validateHigh true false true 2#16) (sw .expectHigh false false false 0#16) true)).map
    (fun t => (t.switches.take 1, t.pollEn)) = some ([sw .validateHigh true false false 2#16], true) := by
  decide
/-- T-2. -/
theorem test_tick_two_events : (after .tick
      (withSw (sw .validateHigh true false false 1#16) (sw .validateLow false true false 1#16) true)).map
    (fun t => (t.switches.map Switch.state, t.evtLog, t.pollEn))
    = some ([.expectLow, .expectHigh], [.act 0, .deact 1], false) := by decide
/-- D-11: a seed of 0 validates at the first tick and the counter reads 0xFFFF. -/
theorem test_tick_seed_zero : (after .tick
      (withSw (sw .validateHigh true false false 0#16) (sw .expectHigh false false false 0#16) true)).map
    (fun t => (t.switches.map Switch.cnt, t.evtLog)) = some ([0xFFFF#16, 0#16], [.act 0]) := by decide

/-- C-7: an event word on the command port changes nothing but the words still to come. -/
theorem test_step_reserved : step { start with trace := [⟨.cmd, 0xA000#16⟩] } = .next start := by
  rfl
/-- Program P3, step 1, from the words of the spec. -/
theorem test_step_enqb : (match step { start with trace := [⟨.cmd, 0x1064#16⟩] } with
    | .next t => t.txbuf
    | .fault _ => []
    | .refused _ => []) = [(0, 0x64#8)] := by decide
theorem test_step_from_reset : decodeTableWord 16 0x9000 = some (.edge 0#4)
    ∧ (match step (State.reset.withFetchWord 16 0x2000) with
      | .next t => t.txie
      | .fault _ => false
      | .refused _ => false) = true := by decide

/-! ### Witnesses: a concrete state and operands that meet a statement's hypotheses together -/

/-- A state with every kind of work: instance 0 validates High with an edge pending, instance 1 waits in EL, one byte
is queued and transmission runs. -/
def busy : State :=
  { withSw (sw .validateHigh true false true 3#16) (sw .expectLow true true false 0#16) true with
    txbuf := [(0, 0x41#8), (1, 0x42#8)], eqIdx := 2, sdIdx := 1, txie := true, sending := true,
    evtLog := [.act 1, .txbyte 0x41#8] }

theorem busy_inv : Inv busy := inv_of_check (by decide)

/-- An edge waits in EH at High, and another in EL at Low. -/
def armed : State :=
  withSw (sw .expectHigh true false true 0#16) (sw .expectLow false true true 0#16) false

theorem armed_inv : Inv armed := inv_of_check (by decide)

theorem witness_DecodeOfEncode : (Instr.rdreg 0x4F#8).wf 16 = true ∧ (Instr.edge 15#4).wf 16 = true
    ∧ (Instr.input 0#4 true).wf 1 = true ∧ (Instr.rdlvl 1#4).wf 2 = true := by decide
theorem witness_ExactlyOneWordPerOperation : (Instr.enqb 0#8).wf 1 = true
    ∧ (Instr.rdreg 0x08#8).wf 1 = true := by decide
theorem witness_DecodedOperationIsWellFormed :
    decode 2 .cmd 0x4017#16 = some (.rdreg 0x17#8) := by decide
theorem witness_ReservedWordsChangeNothing :
    start.config.wf = true ∧ decode start.nSw .cmd 0xA000#16 = none
    ∧ decode start.nSw .evt 0x8200#16 = none ∧ decode start.nSw .evt 0x0000#16 = none
    ∧ decode start.nSw .cmd 0x4018#16 = none := by decide
theorem witness_AssemblyOfTheSyntaxTable : (2 : Nat) ≤ 16 ∧ (16 : Nat) ≤ 16 := by decide
theorem witness_PseudoOperationExpansions : ∀ b ∈ [0x6F#8, 0x6B#8], b ≠ 0#8 := by decide
theorem witness_StepRunsPresentedOperation :
    start.config.wf = true ∧ decode start.nSw .cmd 0x2000#16 = some .stsend
    ∧ start.admits .stsend = true := by decide
theorem witness_SchedulingAndPriority :
    busy.config.wf = true ∧ Instr.tick.wf busy.nSw = true ∧ busy.priority = false
    ∧ ({ busy with priority := true } : State).config.wf = true
    ∧ (∃ w ∈ busy.switches, w.edgePend = true) ∧ busy.txie = true
    ∧ (Instr.edge 1#4).wf busy.nSw = true ∧ Instr.txdone.wf busy.nSw = true := by
  refine ⟨by decide, by decide, by decide, by decide, ⟨_, List.mem_cons_self, rfl⟩, by decide, by decide,
    by decide⟩
theorem witness_NoOperationStops : busy.config.wf = true := by decide
theorem witness_EventNotEnabledIsNotTaken :
    (∀ w, start.switches[(1#4 : BitVec 4).toNat]? = some w → w.edgePend = false)
    ∧ start.pollEn = false ∧ start.txie = false := by
  refine ⟨?_, by decide, by decide⟩
  intro w h
  cases h
  rfl
theorem witness_StepWithNothingPresented : start.config.wf = true ∧ start.trace = [] := by decide
theorem witness_StepConsumesOneWord :
    step { start with trace := [⟨.cmd, 0x0000#16⟩] } = .next start := by rfl
theorem witness_NopKeepsEveryElement : start.config.wf = true ∧ (0x0FFF#16 : Word) ≠ 0#16
    ∧ (0x0FFF#16 : Word).toNat < 4096 := by decide
theorem witness_RdregReadsStatusRegister : busy.switches.length ≤ 16
    ∧ (busy.switches[1]?).isSome = true ∧ (0x06#8).toNat ∉ [0x00, 0x01, 0x02, 0x03, 0x04, 0x05, 0x08]
    ∧ (0x18#8).toNat ∉ [0x00, 0x01, 0x02, 0x03, 0x04, 0x05, 0x08]
    ∧ ¬ (0x10 ≤ (0x18#8).toNat ∧ (0x18#8).toNat < 0x10 + 4 * busy.switches.length)
    ∧ ¬ (0x10 ≤ (0x06#8).toNat ∧ (0x06#8).toNat < 0x10 + 4 * busy.switches.length) := by decide
theorem witness_ReadsAreIdempotent :
    exec (.rdreg 0x10#8) busy = .next { busy with resp := 0x0039#16 } := by rfl
theorem witness_StateTableRows :
    (sw .validateHigh true false false 2#16).state = .validateHigh
    ∧ 0 < ((2#16 : Word) - 1#16).toInt ∧ ((1#16 : Word) - 1#16).toInt ≤ 0
    ∧ ((0#16 : Word) - 1#16).toInt ≤ 0 := by decide
theorem witness_CounterCountsTicks : 0 ≤ (sw .validateLow false true false 0#16).cnt.toInt
    ∧ (sw .validateLow false true false 0#16).state = .validateLow
    ∧ 0 ≤ (sw .validateHigh true false false 32767#16).cnt.toInt
    ∧ (Switch.reset ⟨false, 32767, 0, false⟩).state = .expectHigh
    ∧ (Switch.reset ⟨false, 32767, 0, false⟩).par.actBounce ≤ 32767
    ∧ (sw .expectLow true true false 0#16).state = .expectLow
    ∧ (sw .expectLow true true false 0#16).par.deactBounce ≤ 32767 := by decide
theorem witness_InputRecordsEdge :
    busy.switches[(0#4 : BitVec 4).toNat]? = some (sw .validateHigh true false true 3#16)
    ∧ false ≠ (sw .validateHigh true false true 3#16).line
    ∧ busy.switches.length ≤ (2#4 : BitVec 4).toNat := by decide
theorem witness_EdgeServiceArms :
    armed.switches[(0#4 : BitVec 4).toNat]? = some (sw .expectHigh true false true 0#16)
    ∧ armed.switches[(1#4 : BitVec 4).toNat]? = some (sw .expectLow false true true 0#16)
    ∧ busy.switches[(0#4 : BitVec 4).toNat]? = some (sw .validateHigh true false true 3#16) := by decide
theorem witness_TickAdvancesValidatingInstances : busy.pollEn = true
    ∧ busy.switches[0]? = some (sw .validateHigh true false true 3#16)
    ∧ busy.switches[1]? = some (sw .expectLow true true false 0#16) := by decide
theorem witness_RdlvlReadsValidatedLevel :
    busy.switches[(1#4 : BitVec 4).toNat]? = some (sw .expectLow true true false 0#16)
    ∧ busy.switches.length ≤ (2#4 : BitVec 4).toNat := by decide
theorem witness_PollEnableFollowsEdgeAndTick :
    (exec (.edge 0#4) busy = .next { busy with
      switches := [sw .validateHigh true false false 3#16, sw .expectLow true true false 0#16] })
    ∧ busy.pollEn = true ∧ exec .nop busy = .next busy := by
  refine ⟨rfl, by decide, rfl⟩
theorem witness_OneCallbackPerValidatedTransition :
    Inv busy ∧ exec .nop busy = .next busy
    ∧ (∃ t, exec .tick busy = .next t) ∧ busy.switches.length ≤ 2 :=
  ⟨busy_inv, rfl, ⟨_, rfl⟩, by decide⟩
theorem witness_TransitionsFollowTheTable : ∃ t w w', exec (.edge 0#4) armed = .next t
    ∧ armed.switches[0]? = some w ∧ t.switches[0]? = some w' ∧ w'.state ≠ w.state :=
  ⟨_, _, _, rfl, rfl, rfl, by decide⟩
theorem witness_InstancesEvolveIndependently :
    exec (.rdlvl 1#4) busy = .next { busy with resp := 1#16 } ∧ (0 : Nat) ≠ (1#4 : BitVec 4).toNat
    ∧ busy.pollEn = true
    ∧ (withSw (sw .validateHigh true false true 3#16) (sw .validateLow true true false 1#16) true).pollEn
      = true
    ∧ busy.switches[0]? = (withSw (sw .validateHigh true false true 3#16)
        (sw .validateLow true true false 1#16) true).switches[0]?
    ∧ (∃ t, exec .tick busy = .next t)
    ∧ ∃ t, exec .tick (withSw (sw .validateHigh true false true 3#16)
        (sw .validateLow true true false 1#16) true) = .next t :=
  ⟨rfl, by decide, by decide, by decide, by decide, ⟨_, rfl⟩, ⟨_, rfl⟩⟩
theorem witness_BounceBetweenTicksIsNotSeen :
    busy.switches[(0#4 : BitVec 4).toNat]? = some (sw .validateHigh true false true 3#16)
    ∧ busy.pollEn = true ∧ (∃ t, exec .tick busy = .next t)
    ∧ ∃ t, execAll [.input 0#4 false, .input 0#4 true, .tick] busy = .next t :=
  ⟨by decide, by decide, ⟨_, rfl⟩, ⟨_, rfl⟩⟩
/-- Armed from EH with a settle duration of 3 and two ticks read: the third would validate. -/
theorem witness_SettleDuration_high : ∃ (t u : State) (w : Switch), Inv armed
    ∧ armed.switches[(0#4 : BitVec 4).toNat]? = some w ∧ w.edgePend = true
    ∧ execAll [.edge 0#4, .tick, .tick] armed = .next t ∧ exec .tick t = .next u
    ∧ w.state = .expectHigh ∧ w.level = true
    ∧ TicksRead (0#4 : BitVec 4).toNat true [.edge 0#4, .tick, .tick] armed
    ∧ ([Instr.tick, .tick].count .tick) < max 1 w.par.actBounce := by
  refine ⟨_, _, _, armed_inv, rfl, rfl, rfl, rfl, rfl, by decide, ?_, by decide⟩
  unfold TicksRead
  rw [Along_cons (t := _) rfl, Along_cons (t := _) rfl, Along_cons (t := _) rfl]
  refine ⟨by decide, ?_, ?_, trivial⟩ <;>
  · intro _ w h
    cases h
    decide
/-- Armed from EL with a settle duration of 2 and one tick read. -/
theorem witness_SettleDuration_low : ∃ (t u : State) (w : Switch), Inv armed
    ∧ armed.switches[(1#4 : BitVec 4).toNat]? = some w ∧ w.edgePend = true
    ∧ execAll [.edge 1#4, .tick] armed = .next t ∧ exec .tick t = .next u
    ∧ w.state = .expectLow ∧ w.level = false
    ∧ TicksRead (1#4 : BitVec 4).toNat false [.edge 1#4, .tick] armed
    ∧ ([Instr.tick].count .tick) < max 1 w.par.deactBounce := by
  refine ⟨_, _, _, armed_inv, rfl, rfl, rfl, rfl, rfl, by decide, ?_, by decide⟩
  unfold TicksRead
  rw [Along_cons (t := _) rfl, Along_cons (t := _) rfl]
  refine ⟨by decide, ?_, trivial⟩
  intro _ w h
  cases h
  decide
theorem witness_EnqbStoresByteAtEnqueueIndex : busy.txbuf.wf = true
    ∧ busy.eqIdx < 2 ^ busy.capLog2 := by decide
theorem witness_OverflowLosesQueuedBytes :
    ({ busy with eqIdx := 0 } : State).eqIdx < busy.cap ∧ busy.sdIdx < busy.cap ∧ busy.txbuf.wf = true
    ∧ ({ busy with eqIdx := 0 } : State).count = busy.cap - 1 ∧ busy.txie = true := by decide
theorem witness_StsendArmsTransmission : start.eqIdx = start.sdIdx := by decide
theorem witness_SatIsComputedAtStsendOnly : (∃ t, exec .stsend busy = .next t)
    ∧ exec .nop busy = .next busy := ⟨⟨_, rfl⟩, rfl⟩
theorem witness_TxdoneSendsOrDrains : busy.txie = true ∧ busy.sdIdx ≠ busy.eqIdx
    ∧ ({ busy with sdIdx := 2 } : State).sdIdx = busy.eqIdx ∧ busy.sdIdx < 2 ^ busy.capLog2 := by decide
theorem witness_CountIsUnsentBytes : busy.eqIdx < busy.cap ∧ busy.sdIdx < busy.cap
    ∧ ({ busy with eqIdx := 0, sdIdx := 3 } : State).eqIdx < busy.cap := by decide
/-- One byte queued, and runs with no ENQB of fewer, as many and more TXDONE steps, others interleaved. -/
theorem witness_DrainSendsEveryQueuedByte : busy.eqIdx < busy.cap ∧ busy.sdIdx < busy.cap
    ∧ busy.count = 1 ∧ (∀ b, Instr.enqb b ∉ [Instr.tick, .txdone, .edge 0#4, .txdone])
    ∧ [Instr.tick].count .txdone ≤ busy.count ∧ [Instr.tick, .txdone].count .txdone = busy.count
    ∧ busy.count < [Instr.tick, .txdone, .edge 0#4, .txdone].count .txdone
    ∧ Instr.stsend ∉ [Instr.tick, .txdone, .edge 0#4, .txdone] := by
  refine ⟨by decide, by decide, by decide, by simp, by decide, by decide, by decide, by decide⟩
theorem witness_FifoDelivery : Inv busy ∧ NoOverflow [.enqb 0x43#8, .txdone] busy
    ∧ (∃ t, execAll [.enqb 0x43#8, .txdone] busy = .next t)
    ∧ start.wire = [] ∧ start.queued = [] := by
  refine ⟨busy_inv, ?_, ⟨_, rfl⟩, by decide, by decide⟩
  unfold NoOverflow
  rw [Along_cons (t := _) rfl, Along_cons (t := _) rfl]
  exact ⟨by decide, by decide, trivial⟩
theorem witness_RecordWithRoomNeverOverflows : Inv busy
    ∧ busy.count + (enqueued [.enqb 1#8, .txdone, .enqb 2#8, .stsend]).length ≤ busy.cap - 1 :=
  ⟨busy_inv, by decide⟩
theorem witness_Enq16leNetEffect : ({ busy with eqIdx := 3 } : State).txbuf.wf = true
    ∧ 1 ≤ busy.capLog2 := by decide
/-- `start` with transmission running. -/
def running : State := { start with txie := true, sending := true }

theorem running_inv : Inv running := inv_of_check (by decide)

theorem witness_TxdoneBetweenTheBytesOfARecord : Inv running ∧ running.txie = true
    ∧ running.count = 0 := ⟨running_inv, by decide, by decide⟩
theorem witness_Enq16leRoundTrip : Inv running
    ∧ NoOverflow [.enqb 0xEF#8, .txdone, .enqb 0xBE#8, .stsend, .txdone] running
    ∧ enqueued [.enqb 0xEF#8, .txdone, .enqb 0xBE#8, .stsend, .txdone]
      = enqueued (enq16le 0xBEEF#16) ∧ running.queued = []
    ∧ ∃ t, execAll [.enqb 0xEF#8, .txdone, .enqb 0xBE#8, .stsend, .txdone] running = .next t
      ∧ t.queued = [] := by
  refine ⟨running_inv, ?_, by decide, by decide, ⟨_, rfl, by decide⟩⟩
  unfold NoOverflow
  rw [Along_cons (t := _) rfl, Along_cons (t := _) rfl, Along_cons (t := _) rfl, Along_cons (t := _) rfl,
    Along_cons (t := _) rfl]
  exact ⟨by decide, by decide, by decide, by decide, by decide, trivial⟩
theorem witness_InvariantKeptByEveryStep : Inv { busy with trace := [⟨.evt, 0xA000#16⟩] }
    ∧ ∃ t, step { busy with trace := [⟨.evt, 0xA000#16⟩] } = .next t :=
  ⟨inv_of_check (by decide), ⟨_, rfl⟩⟩
theorem witness_InvariantAfterReset : cfg.wf = true ∧ Config.launch.wf = true := by decide
theorem witness_EachElementHasItsWriters : (∃ t, exec (.input 1#4 false) busy = .next t)
    ∧ (busy.switches[1]?).isSome = true := ⟨⟨_, rfl⟩, by decide⟩
theorem witness_ConfigurationIsFixed :
    ∃ t, step { busy with trace := [⟨.evt, 0xB000#16⟩] } = .next t := ⟨_, rfl⟩
theorem witness_EventLogOnlyGrows :
    ∃ t, step { busy with trace := [⟨.evt, 0xB000#16⟩] } = .next t ∧ busy.evtLog.length < t.evtLog.length :=
  ⟨_, rfl, by decide⟩
theorem witness_ResetLeavesTheseValues : cfg.switches[1]? = some ⟨false, 3, 2, false⟩ := by decide
theorem witness_ButtonHeldAtResetIsNotReported :
    ([⟨true, 3, 2, false⟩] : List SwitchParams)[(0#4 : BitVec 4).toNat]? = some ⟨true, 3, 2, false⟩
    ∧ Bool.xor (⟨true, 3, 2, false⟩ : SwitchParams).initLine true = true := by decide
theorem witness_QuiescenceIsReached : Inv busy ∧ LegalRun [.txdone, .rdreg 0x03#8, .tick] busy
    ∧ busy.quiescent = false ∧ start.quiescent = true ∧ Inv { busy with priority := true } := by
  refine ⟨busy_inv, ?_, by decide, by decide, inv_of_check (by decide)⟩
  unfold LegalRun
  rw [Along_cons (t := _) rfl, Along_cons (t := _) rfl, Along_cons (t := _) rfl]
  exact ⟨by decide, by decide, by decide, trivial⟩

end Sys2Proof.Tests
end

section
/-! PROOFS. The scope of the block (00_scope.md): which configurations a step refuses (R7), that the configuration is
fixed for a run (R6), what a step does with the next word (R11, R69), and events that are not enabled (R11). -/

namespace Sys2Proof.Machine

/-! ### The step, one equation per case -/

theorem step_of_config_not_wf {s : State} (h : s.config.wf = false) :
    step s = .refused .configNotWellFormed := by
  simp [step, h]

theorem step_of_trace_nil {s : State} (hwf : s.config.wf = true) (ht : s.trace = []) :
    step s = .next s := by
  simp [step, hwf, State.takeWord, ht]

/-- Taking a word off the list does not change `N_SW`, so the word is decoded in the block's own. -/
@[simp] theorem State.withTrace_nSw (s : State) (rest : List Presented) :
    ({ s with trace := rest } : State).nSw = s.nSw := rfl

@[simp] theorem State.withTrace_config (s : State) (rest : List Presented) :
    ({ s with trace := rest } : State).config = s.config := rfl

section
variable {s : State} {p : Presented} {rest : List Presented}

theorem State.takeWord_of_trace_cons (ht : s.trace = p :: rest) :
    s.takeWord = some (p, { s with trace := rest }) := by
  simp [State.takeWord, ht]

theorem step_of_decode_none (hwf : s.config.wf = true) (ht : s.trace = p :: rest)
    (hd : decode s.nSw p.port p.word = none) : step s = .next { s with trace := rest } := by
  simp [step, hwf, State.takeWord_of_trace_cons ht, hd, execReserved]

theorem step_of_not_admits {i : Instr} (hwf : s.config.wf = true) (ht : s.trace = p :: rest)
    (hd : decode s.nSw p.port p.word = some i)
    (ha : ({ s with trace := rest } : State).admits i = false) :
    step s = .next { s with trace := rest } := by
  simp [step, hwf, State.takeWord_of_trace_cons ht, hd, ha, notTaken]

theorem step_of_admits {i : Instr} (hwf : s.config.wf = true) (ht : s.trace = p :: rest)
    (hd : decode s.nSw p.port p.word = some i)
    (ha : ({ s with trace := rest } : State).admits i = true) :
    step s = exec i { s with trace := rest } := by
  simp [step, hwf, State.takeWord_of_trace_cons ht, hd, ha]

end

/-- Settles O9: it is the step's equation for an admitted word. -/
theorem stepRunsPresentedOperation : Obligations.StepRunsPresentedOperation :=
  fun _ _ _ _ hwf ht hd ha => step_of_admits hwf ht hd ha

/-! ### Events that are not enabled (R11, R202) -/

theorem State.edgePending_eq_false_iff (s : State) (n : Nat) :
    s.edgePending n = false ↔ ∀ w, s.switches[n]? = some w → w.edgePend = false := by
  unfold State.edgePending
  cases s.switches[n]? <;> simp

theorem execEdge_of_not_edgePending {s : State} {i : BitVec 4} (h : s.edgePending i.toNat = false) :
    execEdge i s = .next s := by
  rw [State.edgePending_eq_false_iff] at h
  unfold execEdge
  cases hw : s.switches[i.toNat]? with
  | none => rfl
  | some w => simp [h w hw]

/-- An operation whose enabled condition does not hold changes nothing; only an event can be such. -/
theorem exec_of_not_enabled {s : State} {i : Instr} (h : s.enabled i = false) : exec i s = .next s := by
  cases i with
  | nop | enqb | stsend | rdlvl | rdreg | input => cases h
  | edge n => exact execEdge_of_not_edgePending h
  | tick =>
    have hp : s.pollEn = false := h
    simp [exec, execTick, hp]
  | txdone =>
    have hx : s.txie = false := h
    simp [exec, execTxdone, hx]

/-- Settles O13: the three enabled conditions that can fail. -/
theorem eventNotEnabledIsNotTaken : Obligations.EventNotEnabledIsNotTaken := fun s =>
  ⟨fun i h => exec_of_not_enabled (i := .edge i) ((s.edgePending_eq_false_iff i.toNat).2 h),
    exec_of_not_enabled (i := .tick), exec_of_not_enabled (i := .txdone)⟩

/-! ### Refusal exactly where the configuration breaks a bound (R7) -/

/-- Every meaning answers a next state. -/
theorem exec_total (i : Instr) (s : State) : ∃ t, exec i s = .next t := by
  cases i with
  | nop | enqb | stsend => exact ⟨_, rfl⟩
  | rdlvl n => simp only [exec, execRdlvl]; split <;> exact ⟨_, rfl⟩
  | rdreg r => simp only [exec, execRdreg]; split <;> exact ⟨_, rfl⟩
  | input n v => simp only [exec, execInput]; split <;> exact ⟨_, rfl⟩
  | edge n =>
    simp only [exec, execEdge]
    split
    · split <;> exact ⟨_, rfl⟩
    · exact ⟨_, rfl⟩
  | tick => simp only [exec, execTick]; split <;> exact ⟨_, rfl⟩
  | txdone => simp only [exec, execTxdone]; split <;> exact ⟨_, rfl⟩

/-- No step of a well-formed configuration stops. -/
theorem step_total {s : State} (hwf : s.config.wf = true) : ∃ t, step s = .next t := by
  cases ht : s.trace with
  | nil => exact ⟨_, step_of_trace_nil hwf ht⟩
  | cons p rest =>
    cases hd : decode s.nSw p.port p.word with
    | none => exact ⟨_, step_of_decode_none hwf ht hd⟩
    | some i =>
      cases ha : ({ s with trace := rest } : State).admits i with
      | false => exact ⟨_, step_of_not_admits hwf ht hd ha⟩
      | true => rw [step_of_admits hwf ht hd ha]; exact exec_total i _

theorem step_eq_refused_iff (s : State) :
    step s = .refused .configNotWellFormed ↔ s.config.wf = false := by
  refine ⟨fun h => Bool.eq_false_iff.2 fun hwf => ?_, step_of_config_not_wf⟩
  obtain ⟨t, ht⟩ := step_total hwf
  cases ht.symm.trans h

/-- R7's bounds on a configuration. -/
theorem config_wf_iff_bounds (c : Config) : c.wf = true ↔
    1 ≤ c.nSw ∧ c.nSw ≤ 16 ∧ (∀ p ∈ c.switches, p.actBounce ≤ 32767 ∧ p.deactBounce ≤ 32767)
      ∧ 1 ≤ c.capLog2 ∧ c.capLog2 ≤ 15 ∧ c.satThreshold ≤ c.cap - 1 := by
  simp [Config.wf, SwitchParams.wf, and_assoc]

/-- R7's bounds, read from the state's own fields. -/
theorem State.config_wf_iff (s : State) : s.config.wf = true ↔
    1 ≤ s.switches.length ∧ s.switches.length ≤ 16
      ∧ (∀ w ∈ s.switches, w.par.actBounce ≤ 32767 ∧ w.par.deactBounce ≤ 32767)
      ∧ 1 ≤ s.capLog2 ∧ s.capLog2 ≤ 15 ∧ s.satThreshold ≤ 2 ^ s.capLog2 - 1 := by
  rw [config_wf_iff_bounds]
  simp [State.config, Config.nSw, Config.cap]

/-- Settles O11: a step is refused exactly where `Config.wf` fails, and `Config.wf` is the list of R7's bounds. -/
theorem illFormedConfigurationRefused : Obligations.IllFormedConfigurationRefused := fun s => by
  rw [step_eq_refused_iff, ← State.config_wf_iff, Bool.not_eq_true]

/-! ### The configuration is fixed (R6, R29, R41) -/

theorem State.setSwitch_config {s : State} {i : Nat} {w w' : Switch} (h : s.switches[i]? = some w)
    (hp : w'.par = w.par) : (s.setSwitch i w').config = s.config := by
  simp [State.config, map_par_set s.switches i w w' h hp]

theorem State.serviceEdge_config {s : State} {i : Nat} {w : Switch} (h : s.switches[i]? = some w) :
    (s.serviceEdge i w).config = s.config := by
  simp [State.serviceEdge, State.setSwitch_config h (edgeSwitch_par i w)]

@[simp] theorem State.tick_config (s : State) : s.tick.config = s.config := by
  simp [State.tick, State.config]

/-- No operation writes the configuration. -/
theorem exec_config {i : Instr} {s t : State} (h : exec i s = .next t) : t.config = s.config := by
  cases i with
  | nop | enqb | stsend => cases h; rfl
  | rdlvl n => obtain ⟨w, _, rfl⟩ | ⟨_, rfl⟩ := execRdlvl_cases h <;> rfl
  | rdreg r => obtain ⟨v, _, rfl⟩ | ⟨_, rfl⟩ := execRdreg_cases h <;> rfl
  | input n v =>
    obtain ⟨w, hw, rfl⟩ | ⟨_, rfl⟩ := execInput_cases h
    · exact State.setSwitch_config hw (inputSwitch_par w v)
    · rfl
  | edge n =>
    obtain ⟨w, hw, _, rfl⟩ | ⟨_, rfl⟩ := execEdge_cases h
    · exact State.serviceEdge_config hw
    · rfl
  | tick =>
    obtain ⟨_, rfl⟩ | ⟨_, rfl⟩ := execTick_cases h
    · exact s.tick_config
    · rfl
  | txdone => obtain ⟨_, _, rfl⟩ | ⟨_, _, rfl⟩ | ⟨_, rfl⟩ := execTxdone_cases h <;> rfl

/-- No step writes the configuration. -/
theorem step_config {s t : State} (h : step s = .next t) : t.config = s.config := by
  obtain ⟨_, ⟨_, rfl⟩ | ⟨p, rest, _, ⟨_, rfl⟩ | ⟨i, _, ⟨_, rfl⟩ | ⟨_, hexec⟩⟩⟩⟩ := step_cases h
  · rfl
  · rfl
  · rfl
  · exact (exec_config hexec).trans (s.withTrace_config rest)

@[simp] theorem State.config_nSw (s : State) : s.config.nSw = s.nSw := by
  simp [State.config, Config.nSw, State.nSw]

@[simp] theorem State.config_cap (s : State) : s.config.cap = s.cap := rfl

/-- Settles O46: `N_SW` and `CAP` are read from the configuration, which no step writes. -/
theorem configurationIsFixed : Obligations.ConfigurationIsFixed := fun s t h => by
  have hc : t.config = s.config := step_config h
  exact ⟨hc, by rw [← State.config_nSw, hc, State.config_nSw],
    by rw [← State.config_cap, hc, State.config_cap]⟩

end Sys2Proof.Machine
end

section
/-! PROOFS. The state elements (10_state.md): which operations write each of them (R41, R45), the list of words to come
(log entry 3), and the value of `COUNT` (R35). -/

namespace Sys2Proof.Machine

/-! ### What an operation does, as a case analysis -/

/-- `Effect s i t`: executing operation `i` in state `s` leads to `t`. One constructor per way a meaning can go, with
the condition under which it goes that way. -/
inductive Effect (s : State) : Instr → State → Prop where
  /-- NOP (R180). -/
  | nop : Effect s .nop s
  /-- The event is not enabled (R11) or an operand is out of its range (R183). -/
  | unchanged {i : Instr} (h : s.enabled i = false ∨ i.wf s.nSw = false) : Effect s i s
  /-- ENQB (R140). -/
  | enqb (b : Byte) : Effect s (.enqb b) (s.storeByte b)
  /-- STSEND (R142). -/
  | stsend : Effect s .stsend ((s.setSending true).setSat s.saturated)
  /-- RDLVL (R108). -/
  | rdlvl {n : BitVec 4} {w : Switch} (hw : s.switches[n.toNat]? = some w) :
      Effect s (.rdlvl n) (s.setResp (zext1 w.out))
  /-- RDREG (R181). -/
  | rdreg {r : BitVec 8} {v : Word} (hv : s.reg r = some v) : Effect s (.rdreg r) (s.setResp v)
  /-- INPUT (R105). -/
  | input {n : BitVec 4} {v : Bool} {w : Switch} (hw : s.switches[n.toNat]? = some w) :
      Effect s (.input n v) (s.setSwitch n.toNat (inputSwitch w v))
  /-- EDGE of a pending edge (R106). -/
  | edge {n : BitVec 4} {w : Switch} (hw : s.switches[n.toNat]? = some w) (he : w.edgePend = true) :
      Effect s (.edge n) (s.serviceEdge n.toNat w)
  /-- TICK with the timer on (R107). -/
  | tick (hp : s.pollEn = true) : Effect s .tick s.tick
  /-- TXDONE of a drained buffer (R150). -/
  | txdoneDrained (hx : s.txie = true) (he : s.sdIdx = s.eqIdx) : Effect s .txdone (s.setSending false)
  /-- TXDONE that sends the byte at `SD` (R150). -/
  | txdoneSends (hx : s.txie = true) (he : s.sdIdx ≠ s.eqIdx) :
      Effect s .txdone (s.emit [.txbyte s.byteAtSd]).advanceSd

theorem State.not_lt_nSw_of_getElem?_eq_none {s : State} {n : Nat} (h : s.switches[n]? = none) :
    ¬ n < s.nSw :=
  Nat.not_lt.2 (List.getElem?_eq_none_iff.1 h)

/-- Everything an operation can do. -/
theorem exec_effect {i : Instr} {s t : State} (h : exec i s = .next t) : Effect s i t := by
  cases i with
  | nop => cases h; exact .nop
  | enqb b => cases h; exact .enqb b
  | stsend => cases h; exact .stsend
  | rdlvl n =>
    obtain ⟨w, hw, rfl⟩ | ⟨hn, rfl⟩ := execRdlvl_cases h
    · exact .rdlvl hw
    · exact .unchanged (.inr (decide_eq_false (State.not_lt_nSw_of_getElem?_eq_none hn)))
  | rdreg r =>
    obtain ⟨v, hv, rfl⟩ | ⟨hn, rfl⟩ := execRdreg_cases h
    · exact .rdreg hv
    · exact .unchanged (.inr (by simp [Instr.wf, ← State.reg_isSome, hn]))
  | input n v =>
    obtain ⟨w, hw, rfl⟩ | ⟨hn, rfl⟩ := execInput_cases h
    · exact .input hw
    · exact .unchanged (.inr (decide_eq_false (State.not_lt_nSw_of_getElem?_eq_none hn)))
  | edge n =>
    obtain ⟨w, hw, he, rfl⟩ | ⟨hn, rfl⟩ := execEdge_cases h
    · exact .edge hw he
    · exact .unchanged (.inl hn)
  | tick =>
    obtain ⟨hp, rfl⟩ | ⟨hp, rfl⟩ := execTick_cases h
    · exact .tick hp
    · exact .unchanged (.inl hp)
  | txdone =>
    obtain ⟨hx, he, rfl⟩ | ⟨hx, he, rfl⟩ | ⟨hx, rfl⟩ := execTxdone_cases h
    · exact .txdoneDrained hx he
    · exact .txdoneSends hx he
    · exact .unchanged (.inl hx)

/-! ### The list of words to come and the event log -/

/-- No operation writes the list of words to come (log entry 3). -/
theorem Effect.trace_eq {i : Instr} {s t : State} (h : Effect s i t) : t.trace = s.trace := by
  cases h <;> rfl

/-- An operation appends its events to the log (R45). -/
theorem Effect.evtLog_prefix {i : Instr} {s t : State} (h : Effect s i t) : s.evtLog <+: t.evtLog := by
  cases h with
  | edge | tick | txdoneSends => exact List.prefix_append _ _
  | _ => exact List.prefix_rfl

/-- Settles O15: the step takes the first word off, and no operation writes the list. -/
theorem stepConsumesOneWord : Obligations.StepConsumesOneWord := fun s t h => by
  obtain ⟨_, ⟨ht, rfl⟩ | ⟨p, rest, ht, ⟨_, rfl⟩ | ⟨i, _, ⟨_, rfl⟩ | ⟨_, hexec⟩⟩⟩⟩ := step_cases h
  · simp [ht]
  · simp [ht]
  · simp [ht]
  · simp [ht, (exec_effect hexec).trace_eq]

/-- Settles O47: every operation appends to the log, and nothing else in a step writes it. -/
theorem eventLogOnlyGrows : Obligations.EventLogOnlyGrows := fun s t h => by
  obtain ⟨_, ⟨_, rfl⟩ | ⟨p, rest, _, ⟨_, rfl⟩ | ⟨i, _, ⟨_, rfl⟩ | ⟨_, hexec⟩⟩⟩⟩ := step_cases h
  · exact List.prefix_rfl
  · exact List.prefix_rfl
  · exact List.prefix_rfl
  · exact (exec_effect hexec).evtLog_prefix

/-! ### The writers of the block's own elements (R28, R33, R34, R36 to R39, R45) -/

section
variable {i : Instr} {s t : State}

theorem Effect.eqIdx_txbuf_writers (h : Effect s i t) :
    t.eqIdx = s.eqIdx ∧ t.txbuf = s.txbuf ∨ ∃ b, i = .enqb b ∧ t.eqIdx = (s.eqIdx + 1) % s.cap := by
  cases h with
  | enqb b => exact .inr ⟨b, rfl, rfl⟩
  | _ => exact .inl ⟨rfl, rfl⟩

theorem Effect.sdIdx_writers (h : Effect s i t) :
    t.sdIdx = s.sdIdx
      ∨ i = .txdone ∧ s.txie = true ∧ s.sdIdx ≠ s.eqIdx ∧ t.sdIdx = (s.sdIdx + 1) % s.cap := by
  cases h with
  | txdoneSends hx he => exact .inr ⟨rfl, hx, he, rfl⟩
  | _ => exact .inl rfl

theorem Effect.resp_writers (h : Effect s i t) :
    t.resp = s.resp ∨ (∃ n, i = .rdlvl n) ∨ ∃ r, i = .rdreg r := by
  cases h with
  | rdlvl => exact .inr (.inl ⟨_, rfl⟩)
  | rdreg => exact .inr (.inr ⟨_, rfl⟩)
  | _ => exact .inl rfl

theorem Effect.txie_sending_writers (h : Effect s i t) :
    t.txie = s.txie ∧ t.sending = s.sending
      ∨ i = .stsend ∧ t.txie = true ∧ t.sending = true
      ∨ i = .txdone ∧ t.txie = false ∧ t.sending = false := by
  cases h with
  | stsend => exact .inr (.inl ⟨rfl, rfl, rfl⟩)
  | txdoneDrained => exact .inr (.inr ⟨rfl, rfl, rfl⟩)
  | _ => exact .inl ⟨rfl, rfl⟩

theorem Effect.sat_writers (h : Effect s i t) : t.sat = s.sat ∨ i = .stsend := by
  cases h with
  | stsend => exact .inr rfl
  | _ => exact .inl rfl

theorem Effect.pollEn_writers (h : Effect s i t) : t.pollEn = s.pollEn ∨ i = .tick ∨ ∃ n, i = .edge n := by
  cases h with
  | tick => exact .inr (.inl rfl)
  | edge => exact .inr (.inr ⟨_, rfl⟩)
  | _ => exact .inl rfl

/-- The edge service writes the log too, but with no event (R106). -/
theorem Effect.evtLog_writers (h : Effect s i t) : t.evtLog = s.evtLog ∨ i = .tick ∨ i = .txdone := by
  cases h with
  | edge => exact .inl (by simp [State.serviceEdge])
  | tick => exact .inr (.inl rfl)
  | txdoneSends => exact .inr (.inr rfl)
  | _ => exact .inl rfl

end

/-! ### The writers of a debouncer's elements (R23, R24, R26, R27, R30) -/

@[simp] theorem State.serviceEdge_switches (s : State) (n : Nat) (w : Switch) :
    (s.serviceEdge n w).switches = s.switches.set n (edgeSwitch n w).1 := rfl

@[simp] theorem State.tick_switches (s : State) : s.tick.switches = (tickAll 0 s.switches).1 := rfl

/-- What an operation can do to debouncer `j`, `w` before and `w'` after. -/
inductive SwitchEffect (j : Nat) (w : Switch) : Instr → Switch → Prop where
  /-- The operation does not concern the debouncer. -/
  | unchanged {i : Instr} : SwitchEffect j w i w
  /-- The debouncer's INPUT (R105). -/
  | input {n : BitVec 4} (v : Bool) (hn : n.toNat = j) : SwitchEffect j w (.input n v) (inputSwitch w v)
  /-- The debouncer's edge service (R106). -/
  | edge {n : BitVec 4} (hn : n.toNat = j) : SwitchEffect j w (.edge n) (edgeSwitch j w).1
  /-- A tick (R107). -/
  | tick : SwitchEffect j w .tick (tickSwitch j w).1

/-- No operation adds or removes a debouncer (R6). -/
theorem Effect.switches_length {i : Instr} {s t : State} (h : Effect s i t) :
    t.switches.length = s.switches.length := by
  cases h with
  | input | edge | tick => simp
  | _ => rfl

/-- An entry of a list after one entry was written: the written one or the one before. -/
theorem eq_or_eq_of_getElem?_set {ws : List Switch} {n j : Nat} {w x w' : Switch}
    (hw : ws[j]? = some w) (hw' : (ws.set n x)[j]? = some w') : n = j ∧ w' = x ∨ w' = w := by
  by_cases hn : n = j
  · subst hn
    have hlt : n < ws.length := (List.getElem?_eq_some_iff.1 hw).1
    rw [List.getElem?_set_self hlt] at hw'
    exact .inl ⟨rfl, (Option.some.inj hw').symm⟩
  · rw [List.getElem?_set_ne hn, hw] at hw'
    exact .inr (Option.some.inj hw').symm

theorem Effect.switchEffect {i : Instr} {s t : State} {j : Nat} {w w' : Switch} (h : Effect s i t)
    (hw : s.switches[j]? = some w) (hw' : t.switches[j]? = some w') : SwitchEffect j w i w' := by
  cases h with
  | input hn =>
    obtain ⟨rfl, rfl⟩ | rfl := eq_or_eq_of_getElem?_set hw hw'
    · cases hn.symm.trans hw
      exact .input _ rfl
    · exact .unchanged
  | edge hn =>
    obtain ⟨rfl, rfl⟩ | rfl := eq_or_eq_of_getElem?_set hw hw'
    · cases hn.symm.trans hw
      exact .edge rfl
    · exact .unchanged
  | tick =>
    rw [State.tick_switches, tickAll_get, hw, Nat.zero_add] at hw'
    cases hw'
    exact .tick
  | _ =>
    cases hw.symm.trans hw'
    exact .unchanged

@[simp] theorem inputSwitch_state (w : Switch) (v : Bool) : (inputSwitch w v).state = w.state := by
  unfold inputSwitch; split <;> rfl

@[simp] theorem inputSwitch_cnt (w : Switch) (v : Bool) : (inputSwitch w v).cnt = w.cnt := by
  unfold inputSwitch; split <;> rfl

@[simp] theorem inputSwitch_out (w : Switch) (v : Bool) : (inputSwitch w v).out = w.out := by
  unfold inputSwitch; split <;> rfl

@[simp] theorem inputSwitch_line (w : Switch) (v : Bool) : (inputSwitch w v).line = v := by
  unfold inputSwitch
  split
  · exact Eq.symm ‹v = w.line›
  · rfl

/-- INPUT can only raise the pending bit (R27). -/
theorem inputSwitch_edgePend (w : Switch) (v : Bool) :
    (inputSwitch w v).edgePend = w.edgePend ∨ (inputSwitch w v).edgePend = true := by
  unfold inputSwitch
  split
  · exact .inl rfl
  · exact .inr rfl

@[simp] theorem edgeSwitch_line (i : Nat) (w : Switch) : (edgeSwitch i w).1.line = w.line := by
  unfold edgeSwitch; split <;> simp

@[simp] theorem tickSwitch_line (i : Nat) (w : Switch) : (tickSwitch i w).1.line = w.line := by
  unfold tickSwitch; split <;> simp

/-- Only a Validate row writes the output (R100). -/
theorem dbstep_out_of_not_validating (i : Nat) (w : Switch) (l : Bool) (h : w.validating = false) :
    (dbstep i w l).1.out = w.out := by
  unfold dbstep
  cases hs : w.state with
  | validateHigh | validateLow => simp [Switch.validating, Fsm.validating, hs] at h
  | expectHigh | expectLow => cases l <;> rfl

/-- The edge service applies Expect rows only, so it keeps the output (R106). -/
@[simp] theorem edgeSwitch_out (i : Nat) (w : Switch) : (edgeSwitch i w).1.out = w.out := by
  unfold edgeSwitch
  split
  · rfl
  · exact dbstep_out_of_not_validating i _ _ (Bool.eq_false_iff.2 ‹_›)

section
variable {i : Instr} {j : Nat} {w w' : Switch}

theorem SwitchEffect.state_cnt_writers (h : SwitchEffect j w i w') :
    w'.state = w.state ∧ w'.cnt = w.cnt ∨ i = .tick ∨ ∃ n : BitVec 4, i = .edge n ∧ n.toNat = j := by
  cases h with
  | unchanged => exact .inl ⟨rfl, rfl⟩
  | input v => exact .inl ⟨inputSwitch_state w v, inputSwitch_cnt w v⟩
  | edge hn => exact .inr (.inr ⟨_, rfl, hn⟩)
  | tick => exact .inr (.inl rfl)

theorem SwitchEffect.out_writers (h : SwitchEffect j w i w') : w'.out = w.out ∨ i = .tick := by
  cases h with
  | unchanged => exact .inl rfl
  | input v => exact .inl (inputSwitch_out w v)
  | edge => exact .inl (edgeSwitch_out j w)
  | tick => exact .inr rfl

theorem SwitchEffect.line_writers (h : SwitchEffect j w i w') :
    w'.line = w.line ∨ ∃ n : BitVec 4, i = .input n w'.line ∧ n.toNat = j := by
  cases h with
  | unchanged => exact .inl rfl
  | input v hn => exact .inr ⟨_, by rw [inputSwitch_line], hn⟩
  | edge => exact .inl (edgeSwitch_line j w)
  | tick => exact .inl (tickSwitch_line j w)

theorem SwitchEffect.edgePend_writers (h : SwitchEffect j w i w') :
    w'.edgePend = w.edgePend
      ∨ (w'.edgePend = true ∧ ∃ (n : BitVec 4) (v : Bool), i = .input n v ∧ n.toNat = j)
      ∨ (w'.edgePend = false ∧ ∃ n : BitVec 4, i = .edge n ∧ n.toNat = j) := by
  cases h with
  | unchanged => exact .inl rfl
  | input v hn => exact (inputSwitch_edgePend w v).imp_right fun he => .inl ⟨he, _, v, rfl, hn⟩
  | edge hn => exact .inr (.inr ⟨edgeSwitch_edgePend j w, _, rfl, hn⟩)
  | tick => exact .inl (tickSwitch_edgePend j w)

end

/-- Settles O45: the writers of each element, read off what an operation can do. -/
theorem eachElementHasItsWriters : Obligations.EachElementHasItsWriters := fun i s t hexec => by
  have h : Effect s i t := exec_effect hexec
  refine ⟨h.eqIdx_txbuf_writers, h.sdIdx_writers, h.resp_writers, h.txie_sending_writers, h.sat_writers,
    h.pollEn_writers, h.evtLog_writers, h.switches_length, fun j w w' hw hw' => ?_⟩
  have hj : SwitchEffect j w i w' := h.switchEffect hw hw'
  exact ⟨hj.state_cnt_writers, hj.out_writers, hj.line_writers, hj.edgePend_writers⟩

/-! ### `COUNT` (R35) -/

/-- `COUNT` is the non-negative remainder of R9, as an integer. -/
theorem State.count_cast (s : State) :
    (s.count : Int) = ((s.eqIdx : Int) - (s.sdIdx : Int)) % (s.cap : Int) :=
  Int.toNat_of_nonneg (Int.emod_nonneg _ (by exact_mod_cast s.cap_pos.ne'))

/-- `SD` advanced by `COUNT` is `EQ`. -/
theorem State.sdIdx_add_count_mod (s : State) (he : s.eqIdx < s.cap) (hs : s.sdIdx < s.cap) :
    (s.sdIdx + s.count) % s.cap = s.eqIdx := by
  rw [s.count_eq he hs]
  split
  · rw [Nat.mod_eq_of_lt] <;> omega
  · rw [show s.sdIdx + (s.eqIdx + s.cap - s.sdIdx) = s.eqIdx + s.cap by omega, Nat.add_mod_right,
      Nat.mod_eq_of_lt he]

/-- The buffer is empty exactly when the indices are equal. -/
theorem State.count_eq_zero_iff (s : State) (he : s.eqIdx < s.cap) (hs : s.sdIdx < s.cap) :
    s.count = 0 ↔ s.eqIdx = s.sdIdx := by
  rw [s.count_eq he hs]
  split <;> omega

/-- Settles O36: the remainder of R9, its range, and the two facts about K-bit indices. -/
theorem countIsUnsentBytes : Obligations.CountIsUnsentBytes := fun s he hs =>
  ⟨s.count_cast, s.count_lt, s.sdIdx_add_count_mod he hs, s.count_eq_zero_iff he hs⟩

end Sys2Proof.Machine
end

section
/-! PROOFS. The status registers (10_state.md, R40; 42_control.md, R181 and R182): the value of each as a number. -/

namespace Sys2Proof.Machine

/-! ### Fields of a register as numbers -/

/-- The first of two fields put side by side counts in units of the second one's range. -/
theorem toNat_append_eq_add {m n : Nat} (x : BitVec m) (y : BitVec n) :
    (x ++ y).toNat = x.toNat * 2 ^ n + y.toNat := by
  rw [BitVec.toNat_append, ← Nat.shiftLeft_add_eq_or_of_lt y.isLt, Nat.shiftLeft_eq]

theorem State.txstat_eq (s : State) :
    s.txstat = BitVec.ofNat 16 (s.txie.toNat + 2 * s.sending.toNat + 4 * s.sat.toNat) := by
  apply BitVec.eq_of_toNat_eq
  simp only [State.txstat, BitVec.toNat_setWidth, toNat_append_eq_add, BitVec.toNat_ofBool,
    BitVec.toNat_ofNat]
  congr 1
  omega

/-- `N_SW` fits its five bits, being at most 16 (R7). -/
theorem State.dbstat_eq (s : State) (h : s.switches.length ≤ 16) :
    s.dbstat = BitVec.ofNat 16 (s.pollEn.toNat + 256 * s.switches.length) := by
  have hp : s.pollEn.toNat < 2 := Bool.toNat_lt _
  apply BitVec.eq_of_toNat_eq
  simp only [State.dbstat, State.nSw, toNat_append_eq_add, BitVec.toNat_ofBool, BitVec.toNat_ofNat]
  omega

theorem Switch.reg_stat (w : Switch) : w.reg 0 = BitVec.ofNat 16
    (w.state.bits.toNat + 4 * w.out.toNat + 8 * w.level.toNat + 16 * w.edgePend.toNat
      + 32 * w.line.toNat + 64 * w.par.activeLow.toNat) := by
  apply BitVec.eq_of_toNat_eq
  simp only [Switch.reg, BitVec.toNat_setWidth, toNat_append_eq_add, BitVec.toNat_ofBool,
    BitVec.toNat_ofNat]
  congr 1
  omega

/-! ### What a register number reads -/

theorem execRdreg_of_reg {s : State} {r : BitVec 8} {v : Word} (h : s.reg r = some v) :
    exec (.rdreg r) s = .next { s with resp := v } := by
  simp [exec, execRdreg, h, State.setResp]

/-- The registers from 0x10 on are the debouncers', four each (R40). -/
theorem State.reg_of_ge (s : State) {r : BitVec 8} (h : 0x10 ≤ r.toNat) :
    s.reg r = (s.switches[(r.toNat - 0x10) / 4]?).map (fun w => w.reg ((r.toNat - 0x10) % 4)) := by
  unfold State.reg
  split
  case h_8 =>
    rw [if_pos h]
    cases s.switches[(r.toNat - 0x10) / 4]? <;> rfl
  all_goals omega

/-- Register `k` of debouncer `i`. -/
theorem State.reg_of_switch {s : State} {i k : Nat} {w : Switch} (hlen : s.switches.length ≤ 16)
    (hw : s.switches[i]? = some w) (hk : k < 4) :
    s.reg (BitVec.ofNat 8 (0x10 + k + 4 * i)) = some (w.reg k) := by
  have hi : i < s.switches.length := (List.getElem?_eq_some_iff.1 hw).1
  have hr : (BitVec.ofNat 8 (0x10 + k + 4 * i)).toNat = 0x10 + k + 4 * i :=
    (BitVec.toNat_ofNat _ _).trans (Nat.mod_eq_of_lt (by omega))
  rw [State.reg_of_ge s (by omega), hr, show (0x10 + k + 4 * i - 0x10) / 4 = i by omega,
    show (0x10 + k + 4 * i - 0x10) % 4 = k by omega, hw]
  rfl

theorem execRdreg_of_switch {s : State} {i k v : Nat} {w : Switch} (hlen : s.switches.length ≤ 16)
    (hw : s.switches[i]? = some w) (hk : k < 4) (hv : w.reg k = BitVec.ofNat 16 v) :
    exec (.rdreg (BitVec.ofNat 8 (0x10 + k + 4 * i))) s = .next { s with resp := BitVec.ofNat 16 v } :=
  execRdreg_of_reg ((State.reg_of_switch hlen hw hk).trans (congrArg some hv))

/-- An unassigned register number has no register (R182). -/
theorem State.reg_eq_none {s : State} {r : BitVec 8} (h : assignedReg s.nSw r = false) :
    s.reg r = none := by
  rwa [← State.reg_isSome, Option.isSome_eq_false_iff, Option.isNone_iff_eq_none] at h

theorem execRdreg_of_not_assigned {s : State} {r : BitVec 8} (h : assignedReg s.nSw r = false) :
    exec (.rdreg r) s = .next s := by
  simp [exec, execRdreg, State.reg_eq_none h]

/-- Settles O17: RDREG of each row of R40's table, and of a number in no row. -/
theorem rdregReadsStatusRegister : Obligations.RdregReadsStatusRegister := fun s hlen => by
  refine ⟨execRdreg_of_reg (congrArg some s.txstat_eq), execRdreg_of_reg rfl, execRdreg_of_reg rfl,
    execRdreg_of_reg rfl, execRdreg_of_reg rfl, execRdreg_of_reg rfl,
    execRdreg_of_reg (congrArg some (s.dbstat_eq hlen)), fun i w hw => ?_, fun r hlist hinst => ?_⟩
  · refine ⟨execRdreg_of_switch hlen hw (k := 0) (by decide) ?_,
      execRdreg_of_switch hlen hw (k := 1) (by decide) (by simp [Switch.reg]),
      execRdreg_of_switch hlen hw (k := 2) (by decide) rfl,
      execRdreg_of_switch hlen hw (k := 3) (by decide) rfl⟩
    rw [w.reg_stat]
    cases w.state <;> rfl
  · apply execRdreg_of_not_assigned
    rw [Bool.eq_false_iff, ne_eq, assignedReg_iff]
    exact not_or.2 ⟨hlist, hinst⟩

end Sys2Proof.Machine
end

section
/-! PROOFS. The address spaces (20_memory.md): the reads that write only RESP (R65), and the transmit buffer as a queue
(section 4, R70): what ENQB and TXDONE do to the queued bytes and to the wire, and FIFO delivery over a run. -/

namespace Sys2Proof.Machine

/-! ### The reads (R65) -/

theorem execRdlvl_of_switch {s : State} {n : BitVec 4} {w : Switch}
    (h : s.switches[n.toNat]? = some w) : exec (.rdlvl n) s = .next { s with resp := zext1 w.out } := by
  simp [exec, execRdlvl, h, State.setResp]

/-- Settles O18: the value read does not depend on RESP, the only element written. -/
theorem readsAreIdempotent : Obligations.ReadsAreIdempotent := by
  rintro i s t (⟨r, rfl⟩ | ⟨n, rfl⟩) h
  · obtain ⟨v, hv, rfl⟩ | ⟨_, rfl⟩ := execRdreg_cases h
    · exact ⟨execRdreg_of_reg ((s.reg_setResp v r).trans hv), rfl⟩
    · exact ⟨h, rfl⟩
  · obtain ⟨w, hw, rfl⟩ | ⟨_, rfl⟩ := execRdlvl_cases h
    · exact ⟨execRdlvl_of_switch (s := s.setResp (zext1 w.out)) hw, rfl⟩
    · exact ⟨h, rfl⟩

/-! ### The queued bytes after an ENQB and after a TXDONE that sends (R35, R140, R150) -/

/-- What `Inv` says of the transmit buffer: both indices are K-bit numbers (R33, R34) and the storage is in canonical
form. -/
structure State.BufInv (s : State) : Prop where
  eq_lt : s.eqIdx < s.cap
  sd_lt : s.sdIdx < s.cap
  buf_wf : s.txbuf.wf = true

theorem Inv.bufInv {s : State} (h : Inv s) : s.BufInv := ⟨h.eq_lt, h.sd_lt, h.buf_wf⟩

/-- Fewer than CAP places from an index on, each offset has its own slot. -/
theorem State.slot_add_inj (s : State) {x k l : Nat} (hk : k < s.cap) (hl : l < s.cap)
    (h : s.slot (x + k) = s.slot (x + l)) : k = l :=
  (Nat.ModEq.add_left_cancel' x h).eq_of_lt_of_lt hk hl

/-- Offset `k` from an advanced index is offset `k + 1` from the index. -/
theorem State.slot_advance_add (s : State) (x k : Nat) : s.slot (s.advance x + k) = s.slot (x + (k + 1)) := by
  unfold State.slot State.advance
  rw [Nat.mod_add_mod, Nat.add_right_comm, Nat.add_assoc]

section
variable {s : State} (hs : s.BufInv)
include hs

/-- The place after the queued bytes is the one `EQ` addresses. -/
theorem State.BufInv.slot_sdIdx_add_count : s.slot (s.sdIdx + s.count) = s.slot s.eqIdx :=
  (s.sdIdx_add_count_mod hs.eq_lt hs.sd_lt).trans (s.slot_of_lt hs.eq_lt).symm

/-- `COUNT` is the only offset below CAP that leads from `SD` to `EQ`. -/
theorem State.BufInv.count_eq_of_slot {c : Nat} (hc : c < s.cap)
    (h : s.slot (s.sdIdx + c) = s.slot s.eqIdx) : s.count = c :=
  s.slot_add_inj s.count_lt hc (hs.slot_sdIdx_add_count.trans h.symm)

theorem State.BufInv.storeByte (b : Byte) : (s.storeByte b).BufInv :=
  ⟨s.advance_lt s.eqIdx, hs.sd_lt, Memory.write_wf _ hs.buf_wf _ b⟩

theorem State.BufInv.emit (es : List Event) : (s.emit es).BufInv := ⟨hs.eq_lt, hs.sd_lt, hs.buf_wf⟩

theorem State.BufInv.advanceSd : s.advanceSd.BufInv :=
  ⟨hs.eq_lt, s.advance_lt s.sdIdx, hs.buf_wf⟩

/-- Without overflow an ENQB counts one byte more. -/
theorem State.BufInv.count_storeByte (b : Byte) (hroom : s.count ≠ s.cap - 1) :
    (s.storeByte b).count = s.count + 1 := by
  have hcount : s.count < s.cap := s.count_lt
  have hlt : s.count + 1 < s.cap := by omega
  refine (hs.storeByte b).count_eq_of_slot hlt ?_
  calc s.slot (s.sdIdx + s.count + 1)
      = s.slot (s.eqIdx + 1) := Nat.ModEq.add_right 1 hs.slot_sdIdx_add_count
    _ = s.slot (s.advance s.eqIdx) := (s.slot_advance_add s.eqIdx 0).symm

/-- A TXDONE that sends counts one byte less. -/
theorem State.BufInv.count_advanceSd (hne : s.sdIdx ≠ s.eqIdx) : s.count = s.advanceSd.count + 1 := by
  have hpos : s.count ≠ 0 := fun h => hne ((s.count_eq_zero_iff hs.eq_lt hs.sd_lt).1 h).symm
  obtain ⟨c, hc⟩ := Nat.exists_eq_add_one_of_ne_zero hpos
  have hlt : c < s.cap := Nat.lt_of_succ_lt (hc.symm.trans_lt s.count_lt)
  rw [hc, hs.advanceSd.count_eq_of_slot hlt]
  calc s.slot (s.advance s.sdIdx + c)
      = s.slot (s.sdIdx + s.count) := by rw [hc]; exact s.slot_advance_add s.sdIdx c
    _ = s.slot s.eqIdx := hs.slot_sdIdx_add_count

/-- Without overflow an ENQB appends its byte to the queue: the slot it writes holds none of the queued bytes. -/
theorem State.BufInv.queued_storeByte (b : Byte) (hroom : s.count ≠ s.cap - 1) :
    (s.storeByte b).queued = s.queued ++ [b] := by
  have hold : ∀ k ∈ List.range s.count,
      (s.storeByte b).txbuf.read (s.slot (s.sdIdx + k)) = s.txbuf.read (s.slot (s.sdIdx + k)) := by
    intro k hk
    have hlt : k < s.count := List.mem_range.1 hk
    refine Memory.read_write_other _ b fun hslot => hlt.ne ?_
    rw [← hs.slot_sdIdx_add_count] at hslot
    exact s.slot_add_inj (hlt.trans s.count_lt) s.count_lt hslot
  have hnew : (s.storeByte b).txbuf.read (s.slot (s.sdIdx + s.count)) = b := by
    rw [hs.slot_sdIdx_add_count]
    exact Memory.read_write_same _ none hs.buf_wf _ b
  calc (s.storeByte b).queued
      = (List.range (s.count + 1)).map fun k => (s.storeByte b).txbuf.read (s.slot (s.sdIdx + k)) := by
        rw [← hs.count_storeByte b hroom]; rfl
    _ = s.queued ++ [b] := by
        rw [List.range_succ, List.map_append, List.map_congr_left hold, List.map_singleton, hnew]; rfl

/-- A TXDONE that sends takes the first byte off the queue. -/
theorem State.BufInv.queued_advanceSd (hne : s.sdIdx ≠ s.eqIdx) :
    s.queued = s.byteAtSd :: s.advanceSd.queued := by
  unfold State.queued
  rw [hs.count_advanceSd hne, List.range_succ_eq_map, List.map_cons, List.map_map]
  exact congrArg _ (List.map_congr_left fun k _ => congrArg s.txbuf.read (s.slot_advance_add s.sdIdx k).symm)

end

/-! ### The wire (R45) -/

theorem State.wire_emit (s : State) (es : List Event) :
    (s.emit es).wire = s.wire ++ es.filterMap Event.byte? :=
  List.filterMap_append

/-- A row of the state table hands no byte to the serial peripheral (R100). -/
theorem dbstep_events_byte? (i : Nat) (w : Switch) (l : Bool) :
    (dbstep i w l).2.filterMap Event.byte? = [] := by
  rcases dbstep_cases i w l with h | ⟨_, _, h⟩ | ⟨_, _, _, h⟩ | ⟨_, _, _, h⟩ | ⟨_, _, h⟩ | ⟨_, _, h⟩
    | ⟨_, _, _, h⟩ | ⟨_, _, _, h⟩ | ⟨_, _, h⟩ <;> rw [h] <;> rfl

theorem tickSwitch_events_byte? (i : Nat) (w : Switch) :
    (tickSwitch i w).2.filterMap Event.byte? = [] := by
  unfold tickSwitch
  split
  · exact dbstep_events_byte? i w w.level
  · rfl

theorem tickAll_events_byte? (i : Nat) (ws : List Switch) :
    (tickAll i ws).2.filterMap Event.byte? = [] := by
  induction ws generalizing i with
  | nil => rfl
  | cons w ws ih => simp [tickAll, tickSwitch_events_byte?, ih]

@[simp] theorem State.tick_wire (s : State) : s.tick.wire = s.wire :=
  (State.wire_emit (s.setSwitches (tickAll 0 s.switches).1) _).trans (by
    rw [tickAll_events_byte?, List.append_nil]; rfl)

@[simp] theorem State.serviceEdge_wire (s : State) (n : Nat) (w : Switch) :
    (s.serviceEdge n w).wire = s.wire :=
  (State.wire_emit (s.setSwitch n (edgeSwitch n w).1) _).trans (by
    rw [edgeSwitch_events, List.filterMap_nil, List.append_nil]; rfl)

/-! ### What an operation does to the queue and the wire -/

/-- `SameFifo s t`: the wire, the storage, its capacity and both indices are in `t` what they are in `s`. -/
structure SameFifo (s t : State) : Prop where
  wire : t.wire = s.wire
  txbuf : t.txbuf = s.txbuf
  eqIdx : t.eqIdx = s.eqIdx
  sdIdx : t.sdIdx = s.sdIdx
  cap : t.cap = s.cap

theorem SameFifo.queued_eq {s t : State} (h : SameFifo s t) : t.queued = s.queued := by
  obtain ⟨_, hbuf, heq, hsd, hcap⟩ := h
  simp only [State.queued, State.count, State.slot, hbuf, heq, hsd, hcap]

theorem SameFifo.bufInv {s t : State} (h : SameFifo s t) (hs : s.BufInv) : t.BufInv :=
  ⟨by rw [h.eqIdx, h.cap]; exact hs.eq_lt, by rw [h.sdIdx, h.cap]; exact hs.sd_lt,
    by rw [h.txbuf]; exact hs.buf_wf⟩

/-- An operation enqueues its byte, sends one, or does neither and leaves the queue and the wire alone. -/
theorem Effect.fifo_cases {i : Instr} {s t : State} (h : Effect s i t) :
    (∃ b, i = .enqb b ∧ t = s.storeByte b)
      ∨ (i = .txdone ∧ s.sdIdx ≠ s.eqIdx ∧ t = (s.emit [.txbyte s.byteAtSd]).advanceSd)
      ∨ (enqueued [i] = [] ∧ SameFifo s t) := by
  cases h with
  | enqb b => exact .inl ⟨b, rfl, rfl⟩
  | txdoneSends _ hne => exact .inr (.inl ⟨rfl, hne, rfl⟩)
  | unchanged h =>
    refine .inr (.inr ⟨?_, rfl, rfl, rfl, rfl, rfl⟩)
    cases i with
    | enqb b => simp [State.enabled, Instr.wf] at h
    | _ => rfl
  | tick => exact .inr (.inr ⟨rfl, s.tick_wire, rfl, rfl, rfl, rfl⟩)
  | edge => exact .inr (.inr ⟨rfl, s.serviceEdge_wire _ _, rfl, rfl, rfl, rfl⟩)
  | _ => exact .inr (.inr ⟨rfl, rfl, rfl, rfl, rfl, rfl⟩)

theorem Effect.bufInv {i : Instr} {s t : State} (h : Effect s i t) (hs : s.BufInv) : t.BufInv := by
  obtain ⟨b, _, rfl⟩ | ⟨_, _, rfl⟩ | ⟨_, hsame⟩ := h.fifo_cases
  · exact hs.storeByte b
  · exact (hs.emit _).advanceSd
  · exact hsame.bufInv hs

/-- One operation without overflow: the wire followed by the queue grows by the byte enqueued. -/
theorem Effect.wire_append_queued {i : Instr} {s t : State} (h : Effect s i t) (hs : s.BufInv)
    (hroom : s.overflows i = false) :
    t.wire ++ t.queued = s.wire ++ s.queued ++ enqueued [i] := by
  obtain ⟨b, rfl, rfl⟩ | ⟨rfl, hne, rfl⟩ | ⟨hnone, hsame⟩ := h.fifo_cases
  · rw [hs.queued_storeByte b (by simpa [State.overflows] using hroom), ← List.append_assoc]
    rfl
  · calc (s.emit [.txbyte s.byteAtSd]).wire ++ s.advanceSd.queued
        = s.wire ++ (s.byteAtSd :: s.advanceSd.queued) := by
          rw [State.wire_emit, List.append_assoc]; rfl
      _ = s.wire ++ s.queued ++ enqueued [.txdone] := by
          rw [← hs.queued_advanceSd hne]; exact (List.append_nil _).symm
  · rw [hnone, List.append_nil, hsame.wire, hsame.queued_eq]

/-! ### FIFO delivery over a run (R70) -/

theorem enqueued_cons (i : Instr) (is : List Instr) : enqueued (i :: is) = enqueued [i] ++ enqueued is := by
  cases i <;> rfl

/-- Over a run without overflow the wire followed by the queue grows by the bytes enqueued. -/
theorem execAll_wire_append_queued {is : List Instr} {s t : State} (hs : s.BufInv)
    (hroom : NoOverflow is s) (h : execAll is s = .next t) :
    t.wire ++ t.queued = s.wire ++ s.queued ++ enqueued is := by
  induction is generalizing s with
  | nil => cases h; exact (List.append_nil _).symm
  | cons i is ih =>
    obtain ⟨u, hu⟩ := exec_total i s
    have heffect : Effect s i u := exec_effect hu
    obtain ⟨hfirst, hrest⟩ := (Along_cons hu).1 hroom
    rw [ih (heffect.bufInv hs) hrest (execAll_cons hu ▸ h), heffect.wire_append_queued hs hfirst,
      enqueued_cons i is, ← List.append_assoc]

/-- Settles O38: the equation is by induction on the run; where wire and queue start empty, the queue is what the wire still
lacks of the bytes enqueued. -/
theorem fifoDelivery : Obligations.FifoDelivery := fun s t is hs hroom h => by
  have hfifo := execAll_wire_append_queued hs.bufInv hroom h
  refine ⟨hfifo, fun hwire hqueued => ⟨t.queued, ?_⟩⟩
  rw [hfifo, hwire, hqueued]
  rfl

end Sys2Proof.Machine
end

section
/-! PROOFS. The encoding (30_encoding.md): the fields of a word (R81), encoder and decoder as inverses (R84, R85, R87),
the reserved words (R86), and what the assembler emits (R89 to R92). -/

namespace Sys2Proof.Machine

/-! ### The fields of a word (R81) -/

theorem mkWord_toNat (o a : BitVec 4) (d : BitVec 8) :
    (mkWord o a d).toNat = o.toNat * 4096 + a.toNat * 256 + d.toNat := by
  simp only [mkWord, toNat_append_eq_add]
  omega

theorem opcOf_toNat (w : Word) : (opcOf w).toNat = w.toNat / 4096 := by
  simp only [opcOf, BitVec.extractLsb'_toNat, Nat.shiftRight_eq_div_pow]
  omega

theorem idxOf_toNat (w : Word) : (idxOf w).toNat = w.toNat / 256 % 16 := by
  simp [idxOf, Nat.shiftRight_eq_div_pow]

theorem dataOf_toNat (w : Word) : (dataOf w).toNat = w.toNat % 256 := by
  simp [dataOf]

/-- A word is its three fields. -/
theorem mkWord_fields (w : Word) : mkWord (opcOf w) (idxOf w) (dataOf w) = w := by
  apply BitVec.eq_of_toNat_eq
  rw [mkWord_toNat, opcOf_toNat, idxOf_toNat, dataOf_toNat]
  omega

section
variable (o a : BitVec 4) (d : BitVec 8)

@[simp] theorem opcOf_mkWord : opcOf (mkWord o a d) = o := by
  apply BitVec.eq_of_toNat_eq
  rw [opcOf_toNat, mkWord_toNat]
  omega

@[simp] theorem idxOf_mkWord : idxOf (mkWord o a d) = a := by
  apply BitVec.eq_of_toNat_eq
  rw [idxOf_toNat, mkWord_toNat]
  omega

@[simp] theorem dataOf_mkWord : dataOf (mkWord o a d) = d := by
  apply BitVec.eq_of_toNat_eq
  rw [dataOf_toNat, mkWord_toNat]
  omega

end

theorem opcOf_eq_of_toNat {w : Word} {k : Nat} (h : (opcOf w).toNat = k) : opcOf w = BitVec.ofNat 4 k := by
  rw [← h, BitVec.ofNat_toNat, BitVec.setWidth_eq]

theorem idxOf_eq_zero_iff (w : Word) : idxOf w = 0#4 ↔ w.toNat / 256 % 16 = 0 := by
  rw [← idxOf_toNat]
  exact BitVec.toNat_inj.symm

theorem dataOf_eq_zero_iff (w : Word) : dataOf w = 0#8 ↔ w.toNat % 256 = 0 := by
  rw [← dataOf_toNat]
  exact BitVec.toNat_inj.symm

/-! ### The level field of INPUT (R82) -/

@[simp] theorem levelByte_high (v : Bool) : ((BitVec.ofBool v).setWidth 8).extractLsb' 1 7 = 0#7 := by
  cases v <;> rfl

theorem high_eq_zero_iff (d : BitVec 8) : d.extractLsb' 1 7 = 0#7 ↔ d.toNat < 2 := by
  rw [← BitVec.toNat_inj, BitVec.extractLsb'_toNat, Nat.shiftRight_eq_div_pow, BitVec.toNat_ofNat]
  omega

/-- A data byte with bits 7 to 1 clear is the level in its bit 0. -/
theorem levelByte_of_high_eq_zero {d : BitVec 8} (h : d.extractLsb' 1 7 = 0#7) :
    (BitVec.ofBool d[0]).setWidth 8 = d := by
  have hd : d = 0#8 ∨ d = 1#8 := by
    rw [high_eq_zero_iff] at h
    bv_omega
  obtain rfl | rfl := hd <;> rfl

/-! ### Encoder and decoder are inverses (R84, R85, R87) -/

theorem decodeRow_eq_some_iff {ok : Bool} {i j : Instr} :
    decodeRow ok i = some j ↔ ok = true ∧ i = j := by
  simp [decodeRow]

theorem decodeRow_eq_none_iff {ok : Bool} {i : Instr} : decodeRow ok i = none ↔ ¬ ok = true := by
  simp [decodeRow]

/-- Settles O2: the operation's word has its row's opcode, and a well-formed operation's fields meet the row's
constraints. -/
theorem decodeOfEncode : Obligations.DecodeOfEncode := fun nSw i hwf => by
  cases i <;>
    simp_all [Instr.port, Instr.wf, encode, decode, decodeCmd, decodeEvt, decodeRow]

section
variable {nSw : Nat} {w : Word} {i : Instr}

theorem wf_port_encode_of_decodeCmd (h : decodeCmd nSw w = some i) :
    i.wf nSw = true ∧ i.port = .cmd ∧ encode i = w := by
  rw [← mkWord_fields w]
  unfold decodeCmd at h
  split at h
  case h_6 => cases h
  all_goals
    rename_i hopc
    obtain ⟨hok, rfl⟩ := decodeRow_eq_some_iff.1 h
    simp_all [Instr.wf, Instr.port, encode, opcOf_eq_of_toNat hopc]

theorem wf_port_encode_of_decodeEvt (h : decodeEvt nSw w = some i) :
    i.wf nSw = true ∧ i.port = .evt ∧ encode i = w := by
  rw [← mkWord_fields w]
  unfold decodeEvt at h
  split at h
  case h_5 => cases h
  all_goals
    rename_i hopc
    obtain ⟨hok, rfl⟩ := decodeRow_eq_some_iff.1 h
    simp_all [Instr.wf, Instr.port, encode, opcOf_eq_of_toNat hopc, levelByte_of_high_eq_zero]

end

/-- Settles O4: in each row the opcode read and the constraints met determine the word's three fields. -/
theorem decodedOperationIsWellFormed : Obligations.DecodedOperationIsWellFormed := fun _ p _ _ h => by
  cases p with
  | cmd => exact wf_port_encode_of_decodeCmd h
  | evt => exact wf_port_encode_of_decodeEvt h

/-- Settles O3: the round trip in both directions. -/
theorem exactlyOneWordPerOperation : Obligations.ExactlyOneWordPerOperation := fun nSw p w i hwf => by
  constructor
  · intro h
    obtain ⟨-, hport, hword⟩ := decodedOperationIsWellFormed nSw p w i h
    exact ⟨hport.symm, hword.symm⟩
  · rintro ⟨rfl, rfl⟩
    exact decodeOfEncode nSw i hwf

/-! ### The reserved words (R86, R183) -/

theorem mod_4096_ne_zero_iff (n : Nat) : n % 4096 ≠ 0 ↔ n / 256 % 16 ≠ 0 ∨ n % 256 ≠ 0 := by omega

/-- Settles O5: a row of R85 answers nothing where its constraint, read in numbers, fails; an opcode in no row of its
port is listed as reserved. -/
theorem reservedWordsChangeNothing : Obligations.ReservedWordsChangeNothing := by
  refine ⟨fun nSw p w => ?_, fun s p rest hwf ht hd => step_of_decode_none hwf ht hd⟩
  have hopc : w.toNat / 4096 < 16 := by omega
  rw [mod_4096_ne_zero_iff]
  cases p with
  | cmd =>
    simp only [decode, decodeCmd, opcOf_toNat]
    generalize w.toNat / 4096 = opc at *
    split
    case h_6 =>
      have hlisted : 8 ≤ opc ∨ opc ∈ [0x5, 0x6, 0x7, 0xC, 0xD, 0xE, 0xF] := by interval_cases opc <;> simp_all
      exact iff_of_true rfl (hlisted.elim (fun h => .inl ⟨trivial, h⟩) fun h => .inr (.inr (.inl h)))
    all_goals
      simp [decodeRow_eq_none_iff, idxOf_eq_zero_iff, dataOf_eq_zero_iff, assignedReg_iff, dataOf_toNat,
        idxOf_toNat, not_and_or, -not_and]
  | evt =>
    simp only [decode, decodeEvt, opcOf_toNat]
    generalize w.toNat / 4096 = opc at *
    split
    case h_5 =>
      have hlisted : opc < 8 ∨ opc ∈ [0x5, 0x6, 0x7, 0xC, 0xD, 0xE, 0xF] := by interval_cases opc <;> simp_all
      exact iff_of_true rfl (.inr (hlisted.imp (fun h => ⟨trivial, h⟩) .inl))
    all_goals
      simp [decodeRow_eq_none_iff, idxOf_eq_zero_iff, dataOf_eq_zero_iff, high_eq_zero_iff, dataOf_toNat,
        idxOf_toNat, not_and_or, -not_and, -Order.lt_two_iff]

/-! ### The words as R89 writes them -/

/-- A word's fields shifted into place and joined. -/
theorem mkWord_eq_or (o a : BitVec 4) (d : BitVec 8) :
    mkWord o a d = o.zeroExtend 16 <<< 12 ||| a.zeroExtend 16 <<< 8 ||| d.zeroExtend 16 := by
  have ho : (o.zeroExtend 16 <<< 12).toNat = o.toNat <<< 12 := by
    rw [BitVec.toNat_shiftLeft, BitVec.toNat_setWidth_of_le (by decide), Nat.mod_eq_of_lt (by omega)]
  have ha : (a.zeroExtend 16 <<< 8).toNat = a.toNat <<< 8 := by
    rw [BitVec.toNat_shiftLeft, BitVec.toNat_setWidth_of_le (by decide), Nat.mod_eq_of_lt (by omega)]
  have hd : (d.zeroExtend 16).toNat = d.toNat := BitVec.toNat_setWidth_of_le (by decide)
  have had : a.toNat <<< 8 + d.toNat < 2 ^ 12 := by omega
  apply BitVec.eq_of_toNat_eq
  rw [BitVec.toNat_or, BitVec.toNat_or, ho, ha, hd, Nat.or_assoc, ← Nat.shiftLeft_add_eq_or_of_lt d.isLt,
    ← Nat.shiftLeft_add_eq_or_of_lt had, mkWord_toNat]
  omega

section
variable (i : BitVec 4) (b : BitVec 8)

theorem encode_enqb : encode (.enqb b) = 0x1000#16 ||| b.zeroExtend 16 := by
  simp [encode, mkWord_eq_or]

theorem encode_rdreg : encode (.rdreg b) = 0x4000#16 ||| b.zeroExtend 16 := by
  simp [encode, mkWord_eq_or]

theorem encode_rdlvl : encode (.rdlvl i) = 0x3000#16 ||| i.zeroExtend 16 <<< 8 := by
  simp [encode, mkWord_eq_or]

theorem encode_edge : encode (.edge i) = 0x9000#16 ||| i.zeroExtend 16 <<< 8 := by
  simp [encode, mkWord_eq_or]

theorem encode_input (v : Bool) :
    encode (.input i v) = 0x8000#16 ||| i.zeroExtend 16 <<< 8 ||| BitVec.ofNat 16 v.toNat := by
  cases v <;> simp [encode, mkWord_eq_or]

end

/-! ### The operand ranges of R89 -/

theorem numField_byte (n : Nat) : numField 8 n = if n ≤ 255 then some (BitVec.ofNat 8 n) else none :=
  if_congr Nat.lt_succ_iff rfl rfl

theorem levelField_eq : ∀ v, levelField v = if v ≤ 1 then some (decide (v = 1)) else none
  | 0 => rfl
  | 1 => rfl
  | _ + 2 => (if_neg (by omega)).symm

section
variable {nSw : Nat} (hn : nSw ≤ 16)
include hn

/-- An instance number of a well-formed block fits the 4-bit field. -/
theorem instanceField_eq (n : Nat) :
    instanceField nSw n = if n < nSw then some (BitVec.ofNat 4 n) else none :=
  ite_congr rfl (fun h => if_pos (by omega)) fun _ => rfl

/-- A register number of R40's table fits the 8-bit field. -/
theorem register_lt {r : Nat}
    (hr : r ∈ [0x00, 0x01, 0x02, 0x03, 0x04, 0x05, 0x08] ∨ (0x10 ≤ r ∧ r < 0x10 + 4 * nSw)) : r < 256 := by
  simp only [List.mem_cons, List.not_mem_nil, or_false] at hr
  omega

theorem registerField_eq (r : Nat) : registerField nSw r
    = if r ∈ [0x00, 0x01, 0x02, 0x03, 0x04, 0x05, 0x08] ∨ (0x10 ≤ r ∧ r < 0x10 + 4 * nSw)
      then some (BitVec.ofNat 8 r) else none := by
  unfold registerField numField
  by_cases hr : r < 2 ^ 8
  · simp only [if_pos hr, assignedReg_iff, BitVec.toNat_ofNat, Nat.mod_eq_of_lt hr]
  · rw [if_neg hr, if_neg fun h => hr (register_lt hn h)]

/-! ### The assembler's words (R89) -/

/-- The two rows whose one operand is an instance. -/
theorem words_of_instanceField {op : BitVec 4 → Instr} {c : Word}
    (hop : ∀ i, encode (op i) = c ||| i.zeroExtend 16 <<< 8) (n : Nat) :
    ((instanceField nSw n).map fun i => [op i]).map (fun is => is.map encode)
      = if n < nSw then some [c ||| BitVec.ofNat 16 n <<< 8] else none := by
  rw [instanceField_eq hn]
  split
  · simp [hop, BitVec.setWidth_ofNat_of_le_of_lt, show n < 16 by omega]
  · rfl

end

/-- Settles O6: the rows without an operand by evaluation, the others by their operand's range and R89's form of the
word. -/
theorem assemblyOfTheSyntaxTable : Obligations.AssemblyOfTheSyntaxTable := fun nSw hn => by
  simp only [assembleOp]
  refine ⟨rfl, fun b => ?_, rfl, words_of_instanceField hn encode_rdlvl, fun r => ?_, fun i v => ?_,
    words_of_instanceField hn encode_edge, rfl, rfl⟩
  · rw [numField_byte]
    split
    · simp [encode_enqb, BitVec.setWidth_ofNat_of_le_of_lt, show b < 256 by omega]
    · rfl
  · rw [registerField_eq hn]
    split
    next hr => simp [encode_rdreg, BitVec.setWidth_ofNat_of_le_of_lt, register_lt hn hr]
    next => rfl
  · rw [instanceField_eq hn, levelField_eq]
    by_cases hi : i < nSw
    · by_cases hv : v ≤ 1
      · have hlevel : (decide (v = 1)).toNat = v := by interval_cases v <;> rfl
        simp [hi, hv, encode_input, hlevel, BitVec.setWidth_ofNat_of_le_of_lt, show i < 16 by omega]
      · simp [hi, hv]
    · simp [hi]

/-! ### The pseudo-operations (R91, R92) -/

theorem zeroExtend_lowByte (v : Word) : (v.extractLsb' 0 8).zeroExtend 16 = v &&& 0xFF#16 := by
  have hlow : v.toNat &&& 255 = v.toNat % 256 := Nat.and_two_pow_sub_one_eq_mod v.toNat 8
  apply BitVec.eq_of_toNat_eq
  rw [BitVec.toNat_setWidth_of_le (by decide)]
  simp [hlow]

theorem zeroExtend_highByte (v : Word) : (v.extractLsb' 8 8).zeroExtend 16 = v >>> 8 := by
  apply BitVec.eq_of_toNat_eq
  rw [BitVec.toNat_setWidth_of_le (by decide), BitVec.extractLsb'_toNat, BitVec.toNat_ushiftRight]
  exact Nat.mod_eq_of_lt (by omega)

theorem map_encode_enqBytes (bs : List Byte) : (enqBytes bs).map encode
    = bs.map (fun b => 0x1000#16 ||| BitVec.zeroExtend 16 b) ++ [0x2000#16] := by
  simp only [enqBytes, List.map_append, List.map_map, Function.comp_def, encode_enqb]
  rfl

/-- A string ends at its first NUL (R162). -/
theorem enqStr_append_nul {bs : List Byte} (h : ∀ b ∈ bs, b ≠ 0#8) (rest : List Byte) :
    enqStr (bs ++ 0#8 :: rest) = enqBytes bs := by
  rw [enqStr, List.takeWhile_append_of_pos (by simpa using h)]
  simp

/-- Settles O7: every expansion is ENQB words, in R89's form, and one STSEND word. -/
theorem pseudoOperationExpansions : Obligations.PseudoOperationExpansions := by
  refine ⟨fun v => ?_, fun v => ?_, fun bs rest h => ?_, map_encode_enqBytes⟩
  · simp only [enq16le, List.map, encode_enqb, zeroExtend_lowByte, zeroExtend_highByte]
    rfl
  · simp only [enq8p16, List.map, encode_enqb]
    rfl
  · rw [enqStr_append_nul h, map_encode_enqBytes]

/-! ### The worked examples (R90, R92) -/

/-- Settles O1: nine words, evaluated both ways. -/
theorem encodingExamplesOfTheSpec : Obligations.EncodingExamplesOfTheSpec := by
  unfold Obligations.EncodingExamplesOfTheSpec
  decide

/-- Settles O8: three lines of text, evaluated. -/
theorem assemblyExamplesOfTheSpec : Obligations.AssemblyExamplesOfTheSpec :=
  ⟨by decide, by decide, by decide⟩

end Sys2Proof.Machine
end

section
/-! PROOFS. The debounce unit, first part (40_debounce.md sections 1 and 2): the state table by level (R100 to R102), the
poll-enable function (R104), and the meanings of INPUT, EDGE, TICK and RDLVL (R105 to R109). -/

namespace Sys2Proof.Machine

/-! ### The state table by level (R100)

The rows for High and those for Low are the same five rows, read at a level `l`. -/

/-- The Expect state that waits for level `l` (R23). -/
def Fsm.expects (l : Bool) : Fsm := if l then .expectHigh else .expectLow

/-- The Validate state that counts down level `l` (R23). -/
def Fsm.validates (l : Bool) : Fsm := if l then .validateHigh else .validateLow

/-- The settle duration of level `l` (R6, R29). -/
def Switch.bounce (w : Switch) (l : Bool) : Nat := if l then w.par.actBounce else w.par.deactBounce

/-- The callback of debouncer `i` for level `l` (R101). -/
def Event.callback (l : Bool) (i : Nat) : Event := if l then .act i else .deact i

theorem Fsm.exists_level (st : Fsm) : ∃ l, st = .expects l ∨ st = .validates l := by
  cases st with
  | expectHigh => exact ⟨true, .inl rfl⟩
  | validateHigh => exact ⟨true, .inr rfl⟩
  | expectLow => exact ⟨false, .inl rfl⟩
  | validateLow => exact ⟨false, .inr rfl⟩

@[simp] theorem Fsm.expects_validating (l : Bool) : (Fsm.expects l).validating = false := by cases l <;> rfl

@[simp] theorem Fsm.validates_validating (l : Bool) : (Fsm.validates l).validating = true := by cases l <;> rfl

/-- The output bit of the state encoding (R23): while level `l` is awaited or counted down, the output is the other. -/
@[simp] theorem Fsm.expects_bits (l : Bool) : (Fsm.expects l).bits[1] = !l := by cases l <;> rfl

@[simp] theorem Fsm.validates_bits (l : Bool) : (Fsm.validates l).bits[1] = !l := by cases l <;> rfl

@[simp] theorem Fsm.expects_ne_validates (l m : Bool) : Fsm.expects l ≠ .validates m := by
  cases l <;> cases m <;> decide

theorem Fsm.validating_iff (st : Fsm) :
    st.validating = true ↔ st = .validateHigh ∨ st = .validateLow := by
  cases st <;> decide

theorem Switch.seed_of_validates {w : Switch} {l : Bool} (h : w.state = .validates l) : w.seed = w.bounce l := by
  cases l <;> simp [Switch.seed, h, Fsm.validates, Switch.bounce]

/-- A settle duration in R7's range is read back from the counter as it is (R102). -/
theorem toInt_ofNat_of_le {b : Nat} (h : b ≤ 32767) : (BitVec.ofNat 16 b).toInt = b := by
  rw [BitVec.toInt_ofNat', Int.bmod_eq_of_le] <;> omega

section
variable (i : Nat) {w : Switch} {l : Bool}

theorem dbstep_of_expects (h : w.state = .expects l) : dbstep i w l
    = ({ w with cnt := BitVec.ofNat 16 (w.bounce l), state := .validates l }, []) := by
  cases l <;> simp [dbstep, h, Fsm.expects, Fsm.validates, Switch.bounce]

theorem dbstep_of_expects_not (h : w.state = .expects (!l)) : dbstep i w l = (w, []) := by
  cases l <;> simp [dbstep, h, Fsm.expects]

theorem dbstep_of_validates_pos (h : w.state = .validates l) (hc : 0 < (decrement w.cnt).toInt) :
    dbstep i w l = ({ w with cnt := decrement w.cnt }, []) := by
  cases l <;> simp [dbstep, h, Fsm.validates, expired, hc]

theorem dbstep_of_validates_nonpos (h : w.state = .validates l) (hc : (decrement w.cnt).toInt ≤ 0) :
    dbstep i w l
      = ({ w with cnt := decrement w.cnt, state := .expects (!l), out := l }, [Event.callback l i]) := by
  cases l <;> simp [dbstep, h, Fsm.validates, Fsm.expects, Event.callback, expired, hc]

theorem dbstep_of_validates_not (h : w.state = .validates (!l)) :
    dbstep i w l = ({ w with state := .expects (!l) }, []) := by
  cases l <;> simp [dbstep, h, Fsm.validates, Fsm.expects]

end

/-- `DbRow i w l r`: at reading `l` some row of the table takes debouncer `i` from `w` to `r`. One constructor per row. -/
inductive DbRow (i : Nat) (w : Switch) (l : Bool) : Switch × List Event → Prop where
  /-- The level awaited is read: the count-down starts. -/
  | arms (h : w.state = .expects l) :
      DbRow i w l ({ w with cnt := BitVec.ofNat 16 (w.bounce l), state := .validates l }, [])
  /-- The level awaited is not read. -/
  | waits (h : w.state = .expects (!l)) : DbRow i w l (w, [])
  /-- The level being validated is read and ticks remain. -/
  | counts (h : w.state = .validates l) (hc : 0 < (decrement w.cnt).toInt) :
      DbRow i w l ({ w with cnt := decrement w.cnt }, [])
  /-- The level being validated is read for the last time (R101). -/
  | ends (h : w.state = .validates l) (hc : (decrement w.cnt).toInt ≤ 0) :
      DbRow i w l ({ w with cnt := decrement w.cnt, state := .expects (!l), out := l }, [Event.callback l i])
  /-- The other level is read during a validation. -/
  | aborts (h : w.state = .validates (!l)) : DbRow i w l ({ w with state := .expects (!l) }, [])

/-- Everything one application of the state table can do, by level. -/
theorem dbstep_row (i : Nat) (w : Switch) (l : Bool) : DbRow i w l (dbstep i w l) := by
  obtain ⟨m, h | h⟩ := w.state.exists_level <;> obtain rfl | rfl : m = l ∨ m = !l := Bool.eq_or_eq_not m l
  · rw [dbstep_of_expects i h]; exact .arms h
  · rw [dbstep_of_expects_not i h]; exact .waits h
  · obtain hc | hc := lt_or_ge 0 (decrement w.cnt).toInt
    · rw [dbstep_of_validates_pos i h hc]; exact .counts h hc
    · rw [dbstep_of_validates_nonpos i h hc]; exact .ends h hc
  · rw [dbstep_of_validates_not i h]; exact .aborts h

/-- Settles O19: the ten rows are the five rows at each of the two levels. -/
theorem stateTableRows : Obligations.StateTableRows := fun i _ =>
  ⟨fun h => ⟨dbstep_of_expects (l := true) i h, dbstep_of_expects_not (l := false) i h⟩,
    fun h => ⟨dbstep_of_validates_pos (l := true) i h, dbstep_of_validates_nonpos (l := true) i h,
      dbstep_of_validates_not (l := false) i h⟩,
    fun h => ⟨dbstep_of_expects (l := false) i h, dbstep_of_expects_not (l := true) i h⟩,
    fun h => ⟨dbstep_of_validates_pos (l := false) i h, dbstep_of_validates_nonpos (l := false) i h,
      dbstep_of_validates_not (l := true) i h⟩⟩

/-! ### The counter (R102) -/

/-- A Validate row at the level being validated subtracts one tick, and ends the validation when none is left. -/
theorem dbstep_counter (i : Nat) {w : Switch} {l : Bool} (h : w.state = .validates l) :
    (dbstep i w l).1.cnt = decrement w.cnt
      ∧ ((dbstep i w l).1.state ≠ w.state ↔ (decrement w.cnt).toInt ≤ 0) := by
  obtain hc | hc := lt_or_ge 0 (decrement w.cnt).toInt
  · rw [dbstep_of_validates_pos i h hc]
    simp [hc]
  · rw [dbstep_of_validates_nonpos i h hc]
    simp [h, hc]

/-- An Expect row that arms the debouncer seeds the counter with the settle duration. -/
theorem dbstep_seeds (i : Nat) {w : Switch} {l : Bool} (h : w.state = .expects l) (hb : w.bounce l ≤ 32767) :
    (dbstep i w l).1.cnt.toInt = w.bounce l := by
  rw [dbstep_of_expects i h]
  exact toInt_ofNat_of_le hb

/-- Settles O20: the decrement of a counter that is not negative does not wrap, and neither does the seed. -/
theorem counterCountsTicks : Obligations.CounterCountsTicks := by
  refine ⟨fun i w l hnonneg hrow => ?_, fun i w =>
    ⟨fun h hb => dbstep_seeds (l := true) i h hb, fun h hb => dbstep_seeds (l := false) i h hb⟩⟩
  have hstate : w.state = .validates l := by
    obtain ⟨h, rfl⟩ | ⟨h, rfl⟩ := hrow <;> exact h
  obtain ⟨hcnt, hends⟩ := dbstep_counter i hstate
  have hdec : (decrement w.cnt).toInt = w.cnt.toInt - 1 := decrement_toInt w.cnt (by omega)
  rw [hends, hcnt, hdec]
  exact ⟨rfl, by omega, Iff.rfl⟩

/-! ### The poll-enable function (R104) -/

theorem Switch.validating_iff (w : Switch) :
    w.validating = true ↔ w.state = .validateHigh ∨ w.state = .validateLow :=
  w.state.validating_iff

theorem pollNeeded_iff (ws : List Switch) :
    pollNeeded ws = true ↔ ∃ w ∈ ws, w.state = .validateHigh ∨ w.state = .validateLow := by
  simp only [pollNeeded, List.any_eq_true, Switch.validating_iff]

/-- A write that keeps the state of a debouncer keeps the poll-enable function. -/
theorem pollNeeded_set {ws : List Switch} {n : Nat} {w w' : Switch} (hw : ws[n]? = some w)
    (hstate : w'.state = w.state) : pollNeeded (ws.set n w') = pollNeeded ws := by
  induction ws generalizing n with
  | nil => rfl
  | cons x ws ih =>
    cases n with
    | zero =>
      cases hw
      simp [pollNeeded, Switch.validating, hstate]
    | succ n => simpa [pollNeeded] using congrArg (x.validating || ·) (ih hw)

theorem State.edgePending_iff (s : State) (n : Nat) :
    s.edgePending n = true ↔ ∃ w, s.switches[n]? = some w ∧ w.edgePend = true := by
  unfold State.edgePending
  cases s.switches[n]? <;> simp

/-- Settles O25: EDGE and TICK end in the poll-enable function when they are taken and change nothing otherwise; the other
operations are not among the writers. -/
theorem pollEnableFollowsEdgeAndTick : Obligations.PollEnableFollowsEdgeAndTick := fun i s t hexec => by
  cases i with
  | edge n =>
    obtain ⟨w, hw, he, rfl⟩ | ⟨hn, rfl⟩ := execEdge_cases hexec
    · exact ⟨fun _ => pollNeeded_iff _, fun hnot => absurd (.inl ⟨n, rfl, w, hw, he⟩) hnot⟩
    · refine ⟨fun htaken => ?_, fun _ => rfl⟩
      obtain ⟨m, ⟨⟩, hm⟩ | ⟨⟨⟩, _⟩ := htaken
      cases hn.symm.trans ((t.edgePending_iff n.toNat).2 hm)
  | tick =>
    obtain ⟨hp, rfl⟩ | ⟨hp, rfl⟩ := execTick_cases hexec
    · exact ⟨fun _ => pollNeeded_iff _, fun hnot => absurd (.inr ⟨rfl, hp⟩) hnot⟩
    · refine ⟨fun htaken => ?_, fun _ => rfl⟩
      obtain ⟨_, ⟨⟩, _⟩ | ⟨_, htrue⟩ := htaken
      cases hp.symm.trans htrue
  | _ =>
    refine ⟨fun htaken => ?_, fun _ => ?_⟩
    · obtain ⟨_, ⟨⟩, _⟩ | ⟨⟨⟩, _⟩ := htaken
    · obtain h | ⟨⟨⟩⟩ | ⟨_, ⟨⟩⟩ := (exec_effect hexec).pollEn_writers
      exact h

/-! ### INPUT, EDGE, TICK and RDLVL (R105 to R108) -/

theorem execInput_of_switch {s : State} {n : BitVec 4} {w : Switch} (v : Bool)
    (h : s.switches[n.toNat]? = some w) :
    exec (.input n v) s = .next (s.setSwitch n.toNat (inputSwitch w v)) := by
  simp [exec, execInput, h]

theorem execInput_of_ge {s : State} {n : BitVec 4} (v : Bool) (h : s.switches.length ≤ n.toNat) :
    exec (.input n v) s = .next s := by
  simp [exec, execInput, h]

/-- Writing a debouncer as it is changes nothing. -/
theorem State.setSwitch_self {s : State} {n : Nat} {w : Switch} (h : s.switches[n]? = some w) :
    s.setSwitch n w = s := by
  obtain ⟨hlt, rfl⟩ := List.getElem?_eq_some_iff.1 h
  simp [State.setSwitch]

theorem inputSwitch_of_ne {w : Switch} {v : Bool} (h : v ≠ w.line) :
    inputSwitch w v = { w with line := v, edgePend := true } := if_neg h

/-- Settles O21: the three cases of R105. -/
theorem inputRecordsEdge : Obligations.InputRecordsEdge := fun s i v => by
  refine ⟨fun w hw hne => ?_, fun w hw heq => ?_, execInput_of_ge v⟩
  · rw [execInput_of_switch v hw, inputSwitch_of_ne hne]
    rfl
  · have hsame : inputSwitch w v = w := if_pos heq
    rw [execInput_of_switch v hw, hsame, State.setSwitch_self hw]

theorem execRdlvl_of_ge {s : State} {n : BitVec 4} (h : s.switches.length ≤ n.toNat) :
    exec (.rdlvl n) s = .next s := by
  simp [exec, execRdlvl, h]

theorem zext1_eq (b : Bool) : zext1 b = if b then 0x0001#16 else 0x0000#16 := by
  cases b <;> rfl

/-- Settles O24: both cases of R108. -/
theorem rdlvlReadsValidatedLevel : Obligations.RdlvlReadsValidatedLevel := fun s i =>
  ⟨fun w hw => by rw [execRdlvl_of_switch hw, zext1_eq], execRdlvl_of_ge⟩

theorem execEdge_of_switch {s : State} {n : BitVec 4} {w : Switch} (h : s.switches[n.toNat]? = some w)
    (he : w.edgePend = true) : exec (.edge n) s = .next (s.serviceEdge n.toNat w) := by
  simp [exec, execEdge, h, he]

/-- The edge service writes its debouncer and `POLL_EN` (R106). -/
theorem State.serviceEdge_eq (s : State) (n : Nat) (w : Switch) : s.serviceEdge n w
    = { s with switches := s.switches.set n (edgeSwitch n w).1, pollEn := (s.serviceEdge n w).pollEn } := by
  simp [State.serviceEdge, State.emit, State.refreshPoll, State.setPollEn, State.setSwitch]

theorem edgeSwitch_of_validating (i : Nat) {w : Switch} (h : w.validating = true) :
    edgeSwitch i w = ({ w with edgePend := false }, []) := if_pos h

theorem edgeSwitch_of_not_validating (i : Nat) {w : Switch} (h : w.validating = false) :
    edgeSwitch i w = dbstep i { w with edgePend := false } w.level := by
  simp [edgeSwitch, h]

/-- The edge service arms a debouncer that awaits the level read. -/
theorem edgeSwitch_of_expects (i : Nat) {w : Switch} {l : Bool} (h : w.state = .expects l) (hl : w.level = l) :
    edgeSwitch i w
      = ({ w with edgePend := false, state := .validates l, cnt := BitVec.ofNat 16 (w.bounce l) }, []) := by
  rw [edgeSwitch_of_not_validating i (by simp [Switch.validating, h]), hl]
  exact dbstep_of_expects i h

/-- The edge service of a debouncer that does not await the level read clears the pending bit only. -/
theorem edgeSwitch_of_not_expects (i : Nat) {w : Switch} (h : w.state ≠ .expects w.level) :
    edgeSwitch i w = ({ w with edgePend := false }, []) := by
  obtain ⟨m, hm | hm⟩ := w.state.exists_level
  · have hlevel : m = !w.level := Bool.eq_not.2 fun he => h (he ▸ hm)
    rw [edgeSwitch_of_not_validating i (by simp [Switch.validating, hm])]
    exact dbstep_of_expects_not i (hlevel ▸ hm)
  · exact edgeSwitch_of_validating i (by simp [Switch.validating, hm])

/-- Settles O22: whether the debouncer awaits the level read decides what its edge service does. -/
theorem edgeServiceArms : Obligations.EdgeServiceArms := fun s i w hw he => by
  refine ⟨(edgeSwitch i.toNat w).1, s.serviceEdge i.toNat w, execEdge_of_switch hw he,
    s.serviceEdge_eq i.toNat w, pollNeeded_iff _, fun ⟨hstate, hl⟩ => ?_, fun ⟨hstate, hl⟩ => ?_, fun ⟨hh, hl⟩ => ?_⟩
  · rw [edgeSwitch_of_expects (l := true) i.toNat hstate hl]
    rfl
  · rw [edgeSwitch_of_expects (l := false) i.toNat hstate hl]
    rfl
  · rw [edgeSwitch_of_not_expects]
    intro hstate
    cases hlevel : w.level with
    | true => exact hh ⟨by rwa [hlevel] at hstate, hlevel⟩
    | false => exact hl ⟨by rwa [hlevel] at hstate, hlevel⟩

theorem execTick_of_pollEn {s : State} (h : s.pollEn = true) : exec .tick s = .next s.tick := by
  simp [exec, execTick, h]

/-- A tick does to a debouncer what R107 says. -/
theorem tickSwitch_eq (i : Nat) (w : Switch) : tickSwitch i w
    = if w.state = .validateHigh ∨ w.state = .validateLow then dbstep i w w.level else (w, []) := by
  simp only [tickSwitch, Switch.validating_iff]

theorem State.tick_getElem? (s : State) {j : Nat} {w : Switch} (h : s.switches[j]? = some w) :
    s.tick.switches[j]? = some (tickSwitch j w).1 := by
  rw [State.tick_switches, tickAll_get, h, Nat.zero_add]
  rfl

theorem State.tick_evtLog (s : State) : s.tick.evtLog = s.evtLog ++ (tickAll 0 s.switches).2 := rfl

/-- The events of a tick, in ascending order of debouncer (R107, R109). -/
theorem tickAll_events (i : Nat) (ws : List Switch) :
    (tickAll i ws).2 = ((ws.zipIdx i).map fun wj => (tickSwitch wj.2 wj.1).2).flatten := by
  induction ws generalizing i with
  | nil => rfl
  | cons w ws ih => simp [tickAll, ih]

/-- Settles O23: what the tick does to each debouncer is `tickSwitch_eq`, and its events are theirs in order. -/
theorem tickAdvancesValidatingInstances : Obligations.TickAdvancesValidatingInstances := fun s hp => by
  refine ⟨s.tick, execTick_of_pollEn hp, rfl, tickAll_length 0 s.switches, fun j w hw => ?_, ?_, pollNeeded_iff _⟩
  · rw [s.tick_getElem? hw, tickSwitch_eq, apply_ite Prod.fst]
    rfl
  · calc s.tick.evtLog
        = s.evtLog ++ (s.switches.zipIdx.map fun wj => (tickSwitch wj.2 wj.1).2).flatten := by
          rw [State.tick_evtLog, tickAll_events]
      _ = _ := by
          simp only [tickSwitch_eq, apply_ite Prod.snd]
          rfl

/-! ### Independence (R103, R109) -/

/-- A row that changes the state follows an edge of the state diagram, with the reading of that edge. -/
theorem DbRow.edge_of_table {i : Nat} {w : Switch} {l : Bool} {r : Switch × List Event} (hrow : DbRow i w l r)
    (hne : r.1.state ≠ w.state) : (w.state, l, r.1.state) ∈
      [(Fsm.expectHigh, true, Fsm.validateHigh), (Fsm.validateHigh, true, Fsm.expectLow),
       (Fsm.validateHigh, false, Fsm.expectHigh), (Fsm.expectLow, false, Fsm.validateLow),
       (Fsm.validateLow, false, Fsm.expectHigh), (Fsm.validateLow, true, Fsm.expectLow)] := by
  cases hrow with
  | waits | counts => exact absurd rfl hne
  | arms h | ends h | aborts h =>
    rw [h]
    cases l <;> simp [Fsm.expects, Fsm.validates]

/-- Settles O27: only EDGE and TICK change a state, by a row of the table for the level read. -/
theorem transitionsFollowTheTable : Obligations.TransitionsFollowTheTable := fun i s t j w w' hexec hw hw' hne => by
  cases (exec_effect hexec).switchEffect hw hw' with
  | unchanged => exact absurd rfl hne
  | input v => exact absurd (inputSwitch_state w v) hne
  | edge =>
    cases hv : w.validating with
    | true =>
      rw [edgeSwitch_of_validating j hv] at hne
      exact absurd rfl hne
    | false =>
      rw [edgeSwitch_of_not_validating j hv] at hne ⊢
      exact (dbstep_row j { w with edgePend := false } w.level).edge_of_table hne
  | tick =>
    cases hv : w.validating with
    | true =>
      have htick : tickSwitch j w = dbstep j w w.level := if_pos hv
      rw [htick] at hne ⊢
      exact (dbstep_row j w w.level).edge_of_table hne
    | false =>
      rw [tickSwitch_of_not_validating j w hv] at hne
      exact absurd rfl hne

/-- Settles O28: a write to one debouncer's place in the list, and `tickAll_get`. -/
theorem instancesEvolveIndependently : Obligations.InstancesEvolveIndependently := by
  refine ⟨fun i n s t j hi hexec hj => ?_, fun s₁ s₂ t₁ t₂ j hp₁ hp₂ hsame h₁ h₂ => ?_⟩
  · have hset (w : Switch) : (s.switches.set n.toNat w)[j]? = s.switches[j]? := List.getElem?_set_ne hj.symm
    obtain rfl | ⟨v, rfl⟩ | rfl := hi
    · obtain ⟨w, _, _, rfl⟩ | ⟨_, rfl⟩ := execEdge_cases hexec
      · exact hset _
      · rfl
    · obtain ⟨w, _, rfl⟩ | ⟨_, rfl⟩ := execInput_cases hexec
      · exact hset _
      · rfl
    · obtain ⟨w, _, rfl⟩ | ⟨_, rfl⟩ := execRdlvl_cases hexec <;> rfl
  · cases (execTick_of_pollEn hp₁).symm.trans h₁
    cases (execTick_of_pollEn hp₂).symm.trans h₂
    rw [State.tick_switches, State.tick_switches, tickAll_get, tickAll_get, hsame]

/-! ### A bounce between two ticks (R111) -/

/-- No row of the table reads the pending bit. -/
theorem dbstep_with_edgePend (i : Nat) (w : Switch) (l b : Bool) : dbstep i { w with edgePend := b } l
    = ({ (dbstep i w l).1 with edgePend := b }, (dbstep i w l).2) := by
  have hrow := dbstep_row i w l
  generalize dbstep i w l = r at hrow ⊢
  cases hrow with
  | arms h => exact dbstep_of_expects i h
  | waits h => exact dbstep_of_expects_not i h
  | counts h hc => exact dbstep_of_validates_pos i h hc
  | ends h hc => exact dbstep_of_validates_nonpos i h hc
  | aborts h => exact dbstep_of_validates_not i h

theorem tickSwitch_with_edgePend (i : Nat) (w : Switch) (b : Bool) : tickSwitch i { w with edgePend := b }
    = ({ (tickSwitch i w).1 with edgePend := b }, (tickSwitch i w).2) := by
  cases hv : w.validating with
  | true =>
    have htick : tickSwitch i w = dbstep i w w.level := if_pos hv
    rw [htick, ← dbstep_with_edgePend]
    exact if_pos hv
  | false =>
    rw [tickSwitch_of_not_validating i w hv]
    exact tickSwitch_of_not_validating i _ hv

/-- A tick carries the pending bits through. -/
theorem tickAll_set_edgePend {i j : Nat} {ws : List Switch} {w : Switch} (b : Bool) (hw : ws[j]? = some w) :
    tickAll i (ws.set j { w with edgePend := b })
      = ((tickAll i ws).1.set j { (tickSwitch (i + j) w).1 with edgePend := b }, (tickAll i ws).2) := by
  induction ws generalizing i j with
  | nil => cases hw
  | cons x ws ih =>
    cases j with
    | zero =>
      cases hw
      simp [tickAll, tickSwitch_with_edgePend]
    | succ j =>
      simp [tickAll, ih (i := i + 1) hw, Nat.add_assoc, Nat.add_comm 1 j]

/-- A line change undone at once leaves the pending bit set and nothing else changed. -/
theorem execAll_bounce {s : State} {i : BitVec 4} {w : Switch} (is : List Instr)
    (hw : s.switches[i.toNat]? = some w) :
    execAll (.input i (!w.line) :: .input i w.line :: is) s
      = execAll is (s.setSwitch i.toNat { w with edgePend := true }) := by
  have hlt : i.toNat < s.switches.length := (List.getElem?_eq_some_iff.1 hw).1
  have hmid : (s.setSwitch i.toNat { w with line := !w.line, edgePend := true }).switches[i.toNat]?
      = some { w with line := !w.line, edgePend := true } := List.getElem?_set_self hlt
  have hfst := execInput_of_switch (!w.line) hw
  rw [inputSwitch_of_ne (Bool.not_ne_self w.line)] at hfst
  have hsnd := execInput_of_switch w.line hmid
  rw [inputSwitch_of_ne (Bool.not_ne_self w.line).symm] at hsnd
  rw [execAll_cons hfst, execAll_cons hsnd]
  simp [State.setSwitch]

/-- Settles O29: the two INPUT steps leave a pending bit, which a tick does not read. -/
theorem bounceBetweenTicksIsNotSeen : Obligations.BounceBetweenTicksIsNotSeen := fun s i w hw => by
  refine ⟨execAll_bounce [] hw, fun t t' hp ht ht' => ?_⟩
  cases (execTick_of_pollEn hp).symm.trans ht
  rw [execAll_bounce [.tick] hw, execAll_cons (execTick_of_pollEn (s := s.setSwitch _ _) hp)] at ht'
  cases ht'
  have hget : s.tick.switches[i.toNat]? = some (tickSwitch i.toNat w).1 := s.tick_getElem? hw
  have hall := tickAll_set_edgePend (i := 0) true hw
  rw [Nat.zero_add] at hall
  have hswitches : (s.setSwitch i.toNat { w with edgePend := true }).tick.switches
      = s.tick.switches.set i.toNat { (tickSwitch i.toNat w).1 with edgePend := true } := by
    rw [State.tick_switches, State.setSwitch_switches, hall]
    rfl
  have hevents : (s.setSwitch i.toNat { w with edgePend := true }).tick.evtLog = s.tick.evtLog := by
    rw [State.tick_evtLog, State.setSwitch_switches, hall]
    rfl
  refine ⟨hevents, ?_, fun u hu => ?_⟩
  · exact (congrArg pollNeeded hswitches).trans (pollNeeded_set hget rfl)
  · cases hget.symm.trans hu
    rw [hswitches]
    exact List.getElem?_set_self (List.getElem?_eq_some_iff.1 hget).1

end Sys2Proof.Machine
end

section
/-! PROOFS. The debounce unit, second part (40_debounce.md section 3): the invariant (R112), the callbacks (R101), and
the settle duration over a run (R110). -/

namespace Sys2Proof.Machine

/-! ### The invariant of a debouncer (R112 (a) and (c)) -/

/-- Every row of the table keeps the invariant, its settle duration being in R7's range. -/
theorem DbRow.inv {i : Nat} {w : Switch} {l : Bool} {r : Switch × List Event} (hrow : DbRow i w l r) (hw : w.Inv)
    (hb : w.bounce l ≤ 32767) : r.1.Inv := by
  have ⟨hout, hge, hle, _⟩ := hw
  cases hrow with
  | waits => exact hw
  | arms h =>
    have hcnt : (BitVec.ofNat 16 (w.bounce l)).toInt = w.bounce l := toInt_ofNat_of_le hb
    have hseed : Switch.seed { w with cnt := BitVec.ofNat 16 (w.bounce l), state := .validates l } = w.bounce l :=
      Switch.seed_of_validates rfl
    refine ⟨by simp [hout, h], by simp only [hcnt]; omega, fun _ => ?_, fun _ hzero => ?_⟩
    · rw [hcnt, hseed]
      omega
    · rw [hcnt] at hzero
      rw [hseed]
      omega
  | counts h hc =>
    obtain ⟨hnonneg, hseed⟩ := hle (by simp [Switch.validating, h])
    have hdec : (decrement w.cnt).toInt = w.cnt.toInt - 1 := decrement_toInt w.cnt (by omega)
    have hsame : Switch.seed { w with cnt := decrement w.cnt } = w.seed := rfl
    refine ⟨hout, by simp only; omega, fun _ => ?_, fun _ hzero => ?_⟩
    · simp only [hsame]
      omega
    · exact absurd hzero hc.ne'
  | ends h hc =>
    obtain ⟨hnonneg, _⟩ := hle (by simp [Switch.validating, h])
    have hdec : (decrement w.cnt).toInt = w.cnt.toInt - 1 := decrement_toInt w.cnt (by omega)
    exact ⟨by simp, by simp only; omega, by simp [Switch.validating], by simp [Switch.validating]⟩
  | aborts h => exact ⟨by simp [hout, h], hge, by simp [Switch.validating], by simp [Switch.validating]⟩

/-- The invariant of a debouncer reads its parameters, state, output and counter only. -/
theorem Switch.Inv.congr {w w' : Switch} (hw : w.Inv) (hpar : w'.par = w.par) (hstate : w'.state = w.state)
    (hout : w'.out = w.out) (hcnt : w'.cnt = w.cnt) : w'.Inv := by
  obtain ⟨_, _, _, _⟩ := hw
  constructor <;> simp_all [Switch.validating, Switch.seed]

theorem Switch.Inv.input {w : Switch} (hw : w.Inv) (v : Bool) : (inputSwitch w v).Inv :=
  hw.congr (inputSwitch_par w v) (inputSwitch_state w v) (inputSwitch_out w v) (inputSwitch_cnt w v)

section
variable {w : Switch} (hw : w.Inv) (hb : ∀ l, w.bounce l ≤ 32767)
include hw hb

theorem Switch.Inv.edge (i : Nat) : (edgeSwitch i w).1.Inv := by
  have hcleared : ({ w with edgePend := false } : Switch).Inv := hw.congr rfl rfl rfl rfl
  unfold edgeSwitch
  split
  · exact hcleared
  · exact (dbstep_row i _ w.level).inv hcleared (hb w.level)

theorem Switch.Inv.tick (i : Nat) : (tickSwitch i w).1.Inv := by
  unfold tickSwitch
  split
  · exact (dbstep_row i w w.level).inv hw (hb w.level)
  · exact hw

theorem SwitchEffect.inv {i : Instr} {j : Nat} {w' : Switch} (h : SwitchEffect j w i w') : w'.Inv := by
  cases h with
  | unchanged => exact hw
  | input v => exact hw.input v
  | edge => exact hw.edge hb j
  | tick => exact hw.tick hb j

end

/-! ### The invariant of the block (R112) -/

theorem Inv.bounce_le {s : State} (hs : Inv s) {w : Switch} (hw : w ∈ s.switches) (l : Bool) :
    w.bounce l ≤ 32767 := by
  obtain ⟨_, _, hb, _⟩ := s.config_wf_iff.1 hs.config_wf
  obtain ⟨hact, hdeact⟩ := hb w hw
  cases l
  · exact hdeact
  · exact hact

/-- Every debouncer was there before the operation. -/
theorem Effect.exists_switch_before {i : Instr} {s t : State} (h : Effect s i t) {w' : Switch}
    (hw' : w' ∈ t.switches) : ∃ j w, w ∈ s.switches ∧ SwitchEffect j w i w' := by
  obtain ⟨j, hj⟩ := List.mem_iff_getElem?.1 hw'
  have hlt : j < s.switches.length := h.switches_length ▸ (List.getElem?_eq_some_iff.1 hj).1
  exact ⟨j, s.switches[j], List.getElem_mem hlt, h.switchEffect (List.getElem?_eq_getElem hlt) hj⟩

/-- Every debouncer is there after the operation. -/
theorem Effect.exists_switch_after {i : Instr} {s t : State} (h : Effect s i t) {j : Nat} {w : Switch}
    (hw : s.switches[j]? = some w) : ∃ w', t.switches[j]? = some w' ∧ SwitchEffect j w i w' := by
  have hlt : j < t.switches.length := h.switches_length ▸ (List.getElem?_eq_some_iff.1 hw).1
  exact ⟨t.switches[j], List.getElem?_eq_getElem hlt, h.switchEffect hw (List.getElem?_eq_getElem hlt)⟩

/-- The storage lists no index outside `0 .. CAP-1` after an operation (R60). -/
theorem Effect.buf_lt {i : Instr} {s t : State} (h : Effect s i t) (hs : ∀ c ∈ s.txbuf, c.1 < s.cap) :
    ∀ c ∈ t.txbuf, c.1 < t.cap := by
  cases h with
  | enqb b => exact Memory.write_lt hs (s.slot_lt s.eqIdx)
  | _ => exact hs

/-- R112 (b) after an operation: EDGE and TICK recompute `POLL_EN`, and no other operation changes a state (R104). -/
theorem Effect.poll_eq {i : Instr} {s t : State} (h : Effect s i t) (hs : s.pollEn = pollNeeded s.switches) :
    t.pollEn = pollNeeded t.switches := by
  cases h with
  | edge | tick => rfl
  | input hw => exact hs.trans (pollNeeded_set hw (inputSwitch_state _ _)).symm
  | _ => exact hs

/-- Every operation keeps the invariant. -/
theorem Inv.exec {i : Instr} {s t : State} (hs : Inv s) (hexec : exec i s = .next t) : Inv t := by
  have h : Effect s i t := exec_effect hexec
  obtain ⟨heq, hsd, hbuf⟩ := h.bufInv hs.bufInv
  refine ⟨(exec_config hexec).symm ▸ hs.config_wf, heq, hsd, hbuf, h.buf_lt hs.buf_lt, fun w' hw' => ?_,
    h.poll_eq hs.poll_eq⟩
  obtain ⟨j, w, hw, heffect⟩ := h.exists_switch_before hw'
  exact heffect.inv (hs.switches_inv w hw) (hs.bounce_le hw)

/-- The invariant does not read the list of words to come. -/
theorem Inv.withTrace {s : State} (hs : Inv s) (rest : List Presented) : Inv { s with trace := rest } := by
  obtain ⟨hcfg, heq, hsd, hbuf, hlt, hsw, hpoll⟩ := hs
  exact ⟨hcfg, heq, hsd, hbuf, hlt, hsw, hpoll⟩

/-- Settles O43: a step takes a word off the list and executes one operation at most. -/
theorem invariantKeptByEveryStep : Obligations.InvariantKeptByEveryStep := fun s t hs h => by
  obtain ⟨_, ⟨_, rfl⟩ | ⟨p, rest, _, ⟨_, rfl⟩ | ⟨i, _, ⟨_, rfl⟩ | ⟨_, hexec⟩⟩⟩⟩ := step_cases h
  · exact hs
  · exact hs.withTrace rest
  · exact hs.withTrace rest
  · exact (hs.withTrace rest).exec hexec

/-! ### The callbacks (R101) -/

/-- The debouncer whose callback an event is; the TXBYTE events are of none (R45). -/
def Event.switch? : Event → Option Nat
  | .act i => some i
  | .deact i => some i
  | .txbyte _ => none

@[simp] theorem Event.callback_switch? (l : Bool) (i : Nat) : (Event.callback l i).switch? = some i := by
  cases l <;> rfl

@[simp] theorem Event.callback_inj (l m : Bool) (i : Nat) : Event.callback l i = .callback m i ↔ l = m := by
  cases l <;> cases m <;> simp [Event.callback]

theorem DbRow.events_switch? {i : Nat} {w : Switch} {l : Bool} {r : Switch × List Event} (hrow : DbRow i w l r) :
    ∀ e ∈ r.2, e.switch? = some i := by
  cases hrow <;> simp

theorem tickSwitch_events_switch? (i : Nat) (w : Switch) : ∀ e ∈ (tickSwitch i w).2, e.switch? = some i := by
  unfold tickSwitch
  split
  · exact (dbstep_row i w w.level).events_switch?
  · simp

/-- A tick emits callbacks of the debouncers it visits only. -/
theorem tickAll_events_switch? {i : Nat} {ws : List Switch} {e : Event} (he : e ∈ (tickAll i ws).2) :
    ∃ j < ws.length, e.switch? = some (i + j) := by
  induction ws generalizing i with
  | nil => cases he
  | cons w ws ih =>
    obtain h | h := List.mem_append.1 he
    · exact ⟨0, Nat.succ_pos _, tickSwitch_events_switch? i w e h⟩
    · obtain ⟨j, hj, hsw⟩ := ih h
      exact ⟨j + 1, Nat.succ_lt_succ hj, by rw [hsw, Nat.add_right_comm, Nat.add_assoc]⟩

theorem tickAll_count_eq_zero {i k : Nat} {ws : List Switch} {e : Event} (he : e.switch? = some k)
    (hk : k < i ∨ i + ws.length ≤ k) : (tickAll i ws).2.count e = 0 := by
  refine List.count_eq_zero.2 fun hmem => ?_
  obtain ⟨j, hj, hsw⟩ := tickAll_events_switch? hmem
  cases he.symm.trans hsw
  omega

/-- A tick emits the callbacks of a debouncer that its own row emits. -/
theorem tickAll_count {i j : Nat} {ws : List Switch} {w : Switch} {e : Event} (hw : ws[j]? = some w)
    (he : e.switch? = some (i + j)) : (tickAll i ws).2.count e = (tickSwitch (i + j) w).2.count e := by
  induction ws generalizing i j with
  | nil => cases hw
  | cons x ws ih =>
    rw [tickAll, List.count_append]
    cases j with
    | zero =>
      cases hw
      rw [tickAll_count_eq_zero he (.inl (Nat.lt_succ_self i))]
      rfl
    | succ j =>
      have hother : (tickSwitch i x).2.count e = 0 := List.count_eq_zero.2 fun hmem => by
        have hsame : i + (j + 1) = i := Option.some.inj (he.symm.trans (tickSwitch_events_switch? i x e hmem))
        omega
      have hplace : i + (j + 1) = i + 1 + j := by omega
      rw [hplace] at he ⊢
      rw [hother, Nat.zero_add, ih hw he]

/-- An operation appends the events of a tick, or no callback. -/
theorem Effect.events {i : Instr} {s t : State} (h : Effect s i t) : ∃ es, t.evtLog = s.evtLog ++ es
    ∧ ((i = .tick ∧ t = s.tick ∧ es = (tickAll 0 s.switches).2)
      ∨ ((i = .tick → t = s) ∧ ∀ e ∈ es, e.switch? = none)) := by
  cases h with
  | tick => exact ⟨_, rfl, .inl ⟨rfl, rfl, rfl⟩⟩
  | unchanged => exact ⟨[], (List.append_nil _).symm, .inr ⟨fun _ => rfl, by simp⟩⟩
  | txdoneSends => exact ⟨_, rfl, .inr ⟨nofun, by simp [Event.switch?]⟩⟩
  | edge => exact ⟨[], by simp [State.serviceEdge], .inr ⟨nofun, by simp⟩⟩
  | _ => exact ⟨[], (List.append_nil _).symm, .inr ⟨nofun, by simp⟩⟩

theorem count_eq_zero_of_switch? {es : List Event} (hes : ∀ e ∈ es, e.switch? = none) {e : Event} {j : Nat}
    (he : e.switch? = some j) : es.count e = 0 :=
  List.count_eq_zero.2 fun hmem => by cases he.symm.trans (hes e hmem)

/-- A row emits the callback for level `m` once where it takes the output to `m`, and not otherwise. -/
theorem DbRow.count_callback {i : Nat} {w : Switch} {l : Bool} {r : Switch × List Event} (hrow : DbRow i w l r)
    (hout : w.out = w.state.bits.getLsbD 1) (m : Bool) :
    r.2.count (.callback m i) = if w.out = (!m) ∧ r.1.out = m then 1 else 0 := by
  cases hrow with
  | ends h =>
    have hbefore : w.out = !l := by simp [hout, h]
    rw [hbefore]
    cases l <;> cases m <;> simp
  | _ => cases m <;> simp

theorem tickSwitch_count_callback (i : Nat) {w : Switch} (hw : w.Inv) (m : Bool) :
    (tickSwitch i w).2.count (.callback m i) = if w.out = (!m) ∧ (tickSwitch i w).1.out = m then 1 else 0 := by
  unfold tickSwitch
  split
  · exact (dbstep_row i w w.level).count_callback hw.out_eq m
  · cases m <;> simp

/-- The callbacks that an operation appends for one debouncer, at either level. -/
theorem oneCallback {i : Instr} {s t : State} (hs : Inv s) (h : Effect s i t) : ∃ es, t.evtLog = s.evtLog ++ es
    ∧ (∀ (m : Bool) (j : Nat) (w w' : Switch), s.switches[j]? = some w → t.switches[j]? = some w' →
        es.count (.callback m j) = if w.out = (!m) ∧ w'.out = m then 1 else 0)
    ∧ ∀ (m : Bool) (j : Nat), s.switches.length ≤ j → es.count (.callback m j) = 0 := by
  obtain ⟨es, hes, ⟨rfl, rfl, rfl⟩ | ⟨hsame, hnone⟩⟩ := h.events
  · refine ⟨_, hes, fun m j w w' hw hw' => ?_, fun m j hj => ?_⟩
    · cases (s.tick_getElem? hw).symm.trans hw'
      have hwinv : w.Inv := hs.switches_inv w (List.mem_of_getElem? hw)
      rw [tickAll_count hw (by simp), Nat.zero_add, tickSwitch_count_callback j hwinv m]
    · exact tickAll_count_eq_zero (Event.callback_switch? m j) (.inr (by omega))
  · have hzero (m : Bool) (j : Nat) : es.count (.callback m j) = 0 :=
      count_eq_zero_of_switch? hnone (Event.callback_switch? m j)
    refine ⟨es, hes, fun m j w w' hw hw' => ?_, fun m j _ => hzero m j⟩
    have hout : w'.out = w.out := by
      obtain hout | htick := (h.switchEffect hw hw').out_writers
      · exact hout
      · rw [hsame htick, hw] at hw'
        cases hw'
        rfl
    rw [hzero, hout]
    cases m <;> simp

/-- Settles O26: `oneCallback` at High for ACT and at Low for DEACT. -/
theorem oneCallbackPerValidatedTransition : Obligations.OneCallbackPerValidatedTransition := fun i s t hs hexec => by
  obtain ⟨es, hes, hin, hbeyond⟩ := oneCallback hs (exec_effect hexec)
  exact ⟨es, hes, fun j w w' hw hw' => ⟨hin true j w w' hw hw', hin false j w w' hw hw'⟩,
    fun j hj => ⟨hbeyond true j hj, hbeyond false j hj⟩⟩

/-! ### A validation over a run (R110) -/

/-- `Counting l n c s`: debouncer `n` validates level `l`, with `c` in its counter. -/
structure Counting (l : Bool) (n : Nat) (c : Int) (s : State) : Prop where
  inv : Inv s
  counter : ∃ w, s.switches[n]? = some w ∧ w.state = .validates l ∧ w.cnt.toInt = c

/-- Only a tick takes a validating debouncer further: the edge service does not (R106). -/
theorem SwitchEffect.state_cnt_of_validating {i : Instr} {j : Nat} {w w' : Switch} (h : SwitchEffect j w i w')
    (hi : i ≠ .tick) (hv : w.validating = true) : w'.state = w.state ∧ w'.cnt = w.cnt := by
  cases h with
  | unchanged => exact ⟨rfl, rfl⟩
  | input v => exact ⟨inputSwitch_state w v, inputSwitch_cnt w v⟩
  | edge => rw [edgeSwitch_of_validating j hv]; exact ⟨rfl, rfl⟩
  | tick => exact absurd rfl hi

theorem tickSwitch_of_validates (i : Nat) {w : Switch} {l : Bool} (h : w.state = .validates l) :
    tickSwitch i w = dbstep i w w.level := if_pos (by simp [Switch.validating, h])

section
variable {l : Bool} {n : Nat} {c : Int} {s t : State}

/-- While a debouncer validates the timer is on (R112 (b)), so a tick is taken. -/
theorem Counting.eq_tick (hc : Counting l n c s) (h : exec .tick s = .next t) : t = s.tick := by
  obtain ⟨w, hw, hstate, _⟩ := hc.counter
  have hv : w.validating = true := by simp [Switch.validating, hstate]
  have hp : s.pollEn = true := hc.inv.poll_eq.trans (List.any_eq_true.2 ⟨w, List.mem_of_getElem? hw, hv⟩)
  cases (execTick_of_pollEn hp).symm.trans h
  rfl

theorem State.tick_count_callback {w : Switch} (hw : s.switches[n]? = some w) {e : Event} (he : e.switch? = some n) :
    s.tick.evtLog.count e = s.evtLog.count e + (tickSwitch n w).2.count e := by
  rw [State.tick_evtLog, List.count_append, tickAll_count hw (by simpa using he), Nat.zero_add]

/-- Any operation but a tick leaves the validation and the debouncer's callbacks where they are. -/
theorem Counting.exec_of_ne_tick {i : Instr} (hc : Counting l n c s) (hi : i ≠ .tick) (h : exec i s = .next t) :
    Counting l n c t ∧ ∀ e : Event, e.switch? = some n → t.evtLog.count e = s.evtLog.count e := by
  have heffect : Effect s i t := exec_effect h
  obtain ⟨w, hw, hstate, hcnt⟩ := hc.counter
  obtain ⟨w', hw', hsw⟩ := heffect.exists_switch_after hw
  obtain ⟨hstate', hcnt'⟩ := hsw.state_cnt_of_validating hi (by simp [Switch.validating, hstate])
  refine ⟨⟨hc.inv.exec h, w', hw', hstate'.trans hstate, hcnt' ▸ hcnt⟩, fun e he => ?_⟩
  obtain ⟨es, hes, ⟨htick, _⟩ | ⟨_, hnone⟩⟩ := heffect.events
  · exact absurd htick hi
  · rw [hes, List.count_append, count_eq_zero_of_switch? hnone he, Nat.add_zero]

/-- A tick that reads the level and is not the last takes one off the counter and emits nothing. -/
theorem Counting.tick_of_lt (hc : Counting l n c s) (hlt : 1 < c) (h : exec .tick s = .next t)
    (hl : ∀ w, s.switches[n]? = some w → w.level = l) :
    Counting l n (c - 1) t ∧ ∀ e : Event, e.switch? = some n → t.evtLog.count e = s.evtLog.count e := by
  cases hc.eq_tick h
  obtain ⟨w, hw, hstate, rfl⟩ := hc.counter
  have hdec : (decrement w.cnt).toInt = w.cnt.toInt - 1 := decrement_toInt w.cnt (by omega)
  have htick : tickSwitch n w = ({ w with cnt := decrement w.cnt }, []) := by
    rw [tickSwitch_of_validates n hstate, hl w hw, dbstep_of_validates_pos n hstate (by omega)]
  refine ⟨⟨hc.inv.exec h, { w with cnt := decrement w.cnt }, ?_, hstate, hdec⟩, fun e he => ?_⟩
  · rw [s.tick_getElem? hw, htick]
  · rw [State.tick_count_callback hw he, htick, List.count_nil, Nat.add_zero]

/-- A run with fewer ticks than the counter holds, each reading the level, takes that many off the counter and emits no
callback of the debouncer. -/
theorem Counting.run {is : List Instr} (hc : Counting l n c s) (h : execAll is s = .next t)
    (hreads : TicksRead n l is s) (hlt : is.count .tick = 0 ∨ is.count .tick < c) :
    Counting l n (c - is.count .tick) t
      ∧ ∀ e : Event, e.switch? = some n → t.evtLog.count e = s.evtLog.count e := by
  induction is generalizing s c with
  | nil =>
    cases h
    exact ⟨by simpa using hc, fun _ _ => rfl⟩
  | cons i is ih =>
    obtain ⟨m, hm⟩ := exec_total i s
    obtain ⟨hread, hrest⟩ := (Along_cons hm).1 hreads
    rw [execAll_cons hm] at h
    by_cases hi : i = .tick
    · subst hi
      rw [List.count_cons_self] at hlt ⊢
      obtain ⟨hc', hsame⟩ := hc.tick_of_lt (by omega) hm (hread rfl)
      obtain ⟨hct, hcount⟩ := ih hc' h hrest (by omega)
      have hleft : c - ((is.count .tick + 1 : Nat) : Int) = c - 1 - is.count .tick := by omega
      exact ⟨hleft ▸ hct, fun e he => (hcount e he).trans (hsame e he)⟩
    · rw [List.count_cons_of_ne hi] at hlt ⊢
      obtain ⟨hc', hsame⟩ := hc.exec_of_ne_tick hi hm
      obtain ⟨hct, hcount⟩ := ih hc' h hrest hlt
      exact ⟨hct, fun e he => (hcount e he).trans (hsame e he)⟩

end

/-- The debouncer after its arming EDGE counts from its settle duration, with no callback emitted. -/
theorem counting_of_edge {l : Bool} {s t : State} {n : BitVec 4} {w : Switch} (hs : Inv s)
    (hw : s.switches[n.toNat]? = some w) (he : w.edgePend = true) (hstate : w.state = .expects l) (hl : w.level = l)
    (h : exec (.edge n) s = .next t) : Counting l n.toNat (w.bounce l) t ∧ t.evtLog = s.evtLog := by
  have hlt : n.toNat < s.switches.length := (List.getElem?_eq_some_iff.1 hw).1
  have hbounce : w.bounce l ≤ 32767 := hs.bounce_le (List.mem_of_getElem? hw) l
  refine ⟨⟨hs.exec h, (edgeSwitch n.toNat w).1, ?_, ?_, ?_⟩, ?_⟩
  all_goals cases (execEdge_of_switch hw he).symm.trans h
  · exact List.getElem?_set_self hlt
  · rw [edgeSwitch_of_expects n.toNat hstate hl]
  · rw [edgeSwitch_of_expects n.toNat hstate hl]
    exact toInt_ofNat_of_le hbounce
  · simp [State.serviceEdge]

section
variable {l : Bool} {n : Nat} {w : Switch}

/-- The tick that finds at most one tick left and reads the level ends the validation (R101). -/
theorem tickSwitch_of_last {i : Nat} (h : w.state = .validates l) (hl : w.level = l) (hnonneg : 0 ≤ w.cnt.toInt)
    (hlast : w.cnt.toInt ≤ 1) : tickSwitch i w
      = ({ w with cnt := decrement w.cnt, state := .expects (!l), out := l }, [Event.callback l i]) := by
  have hdec : (decrement w.cnt).toInt = w.cnt.toInt - 1 := decrement_toInt w.cnt (by omega)
  rw [tickSwitch_of_validates i h, hl, dbstep_of_validates_nonpos i h (by omega)]

/-- A tick that reads the other level aborts the validation (R107). -/
theorem tickSwitch_of_abort {i : Nat} (h : w.state = .validates l) (hl : w.level = !l) :
    tickSwitch i w = ({ w with state := .expects l }, []) := by
  have hother : w.state = .validates (!!l) := by rw [h, Bool.not_not]
  rw [tickSwitch_of_validates i h, hl, dbstep_of_validates_not i hother, Bool.not_not]

end

/-- R110 for the level `l`: `is` are the operations after the arming EDGE, and `u` is the state a tick after them
leaves. -/
theorem settle_of_level {l : Bool} {s t u : State} {n : BitVec 4} {w : Switch} {is : List Instr} (hs : Inv s)
    (hw : s.switches[n.toNat]? = some w) (he : w.edgePend = true)
    (hrun : execAll (.edge n :: is) s = .next t) (htick : exec .tick t = .next u)
    (hstate : w.state = .expects l) (hl : w.level = l) (hreads : TicksRead n.toNat l (.edge n :: is) s)
    (hfew : is.count .tick < max 1 (w.bounce l)) :
    ∃ w' w'' : Switch, t.switches[n.toNat]? = some w' ∧ u.switches[n.toNat]? = some w''
      ∧ w'.state = .validates l ∧ w'.out = (!l)
      ∧ t.evtLog.count (.callback l n.toNat) = s.evtLog.count (.callback l n.toNat)
      ∧ u.evtLog.count (.callback (!l) n.toNat) = s.evtLog.count (.callback (!l) n.toNat)
      ∧ (w'.level = l → is.count .tick + 1 = max 1 (w.bounce l) →
          w''.state = .expects (!l) ∧ w''.out = l
          ∧ u.evtLog.count (.callback l n.toNat) = s.evtLog.count (.callback l n.toNat) + 1)
      ∧ (w'.level = (!l) → w''.state = .expects l ∧ w''.out = (!l)
          ∧ u.evtLog.count (.callback l n.toNat) = s.evtLog.count (.callback l n.toNat)) := by
  obtain ⟨armed, harmed⟩ := exec_total (.edge n) s
  obtain ⟨_, hrest⟩ := (Along_cons harmed).1 hreads
  rw [execAll_cons harmed] at hrun
  obtain ⟨hstart, hlog⟩ := counting_of_edge hs hw he hstate hl harmed
  obtain ⟨hend, hcount⟩ := hstart.run hrun hrest (by omega)
  rw [hlog] at hcount
  obtain ⟨w', hw', hstate', hcnt'⟩ := hend.counter
  have hw'inv : w'.Inv := hend.inv.switches_inv w' (List.mem_of_getElem? hw')
  have hout' : w'.out = !l := by simp [hw'inv.out_eq, hstate']
  obtain ⟨hnonneg, _⟩ := hw'inv.cnt_le (by simp [Switch.validating, hstate'])
  cases hend.eq_tick htick
  have hcallback (m : Bool) : t.tick.evtLog.count (.callback m n.toNat)
      = s.evtLog.count (.callback m n.toNat) + (tickSwitch n.toNat w').2.count (.callback m n.toNat) := by
    rw [State.tick_count_callback hw' (by simp), hcount _ (by simp)]
  refine ⟨w', (tickSwitch n.toNat w').1, hw', t.tick_getElem? hw', hstate', hout', hcount _ (by simp), ?_,
    fun hl' hlast => ?_, fun hl' => ?_⟩
  · rw [hcallback, tickSwitch_count_callback n.toNat hw'inv, hout']
    simp
  · rw [hcallback, tickSwitch_of_last hstate' hl' hnonneg (by omega)]
    simp
  · rw [hcallback, tickSwitch_of_abort hstate' hl']
    exact ⟨rfl, hout', rfl⟩

/-- Settles O30: `settle_of_level` at High and at Low. -/
theorem settleDuration : Obligations.SettleDuration := fun _ _ _ _ _ _ hs hw he hrun htick =>
  ⟨settle_of_level (l := true) hs hw he hrun htick, settle_of_level (l := false) hs hw he hrun htick⟩

end Sys2Proof.Machine
end

section
/-! PROOFS. The transmit unit (41_txbuffer.md section 1): what ENQB stores (R140), the overflow it does not detect (R141),
STSEND and the comparison it makes (R142, R143), and TXDONE (R150). -/

namespace Sys2Proof.Machine

/-! ### ENQB (R140, R141) -/

theorem State.read_storeByte_same {s : State} (b : Byte) (hwf : s.txbuf.wf = true) :
    (s.storeByte b).txbuf.read (s.slot s.eqIdx) = b :=
  Memory.read_write_same s.txbuf none hwf _ b

theorem State.read_storeByte_other {s : State} (b : Byte) {a : Nat} (h : a ≠ s.slot s.eqIdx) :
    (s.storeByte b).txbuf.read a = s.txbuf.read a :=
  Memory.read_write_other s.txbuf b h

section
variable {s : State} (he : s.eqIdx < s.cap) (hs : s.sdIdx < s.cap) (hfull : s.count = s.cap - 1)
include he hs hfull

/-- In a full buffer the place after `EQ` is the one `SD` addresses. -/
theorem State.advance_eqIdx_of_full : s.advance s.eqIdx = s.sdIdx := by
  have hcap : s.count + 1 = s.cap := by have := s.cap_pos; omega
  calc (s.eqIdx + 1) % s.cap
      = ((s.sdIdx + s.count) % s.cap + 1) % s.cap := by rw [s.sdIdx_add_count_mod he hs]
    _ = (s.sdIdx + (s.count + 1)) % s.cap := Nat.mod_add_mod _ _ _
    _ = s.sdIdx := by rw [hcap, Nat.add_mod_right, Nat.mod_eq_of_lt hs]

/-- ENQB into a full buffer makes it look empty. -/
theorem State.count_storeByte_of_full (b : Byte) : (s.storeByte b).count = 0 :=
  ((s.storeByte b).count_eq_zero_iff (s.advance_lt s.eqIdx) hs).2 (State.advance_eqIdx_of_full he hs hfull)

end

/-- Settles O31: a read of the storage after the write, and `COUNT` after an ENQB into a full buffer. -/
theorem enqbStoresByteAtEnqueueIndex : Obligations.EnqbStoresByteAtEnqueueIndex := fun s b hwf =>
  ⟨s.storeByte b, rfl, rfl, rfl, State.read_storeByte_same b hwf, fun _ => State.read_storeByte_other b,
    Memory.write_wf _ hwf _ b, s.slot_of_lt, fun he hs hfull => State.count_storeByte_of_full he hs hfull b⟩

/-! ### The queue (R35) -/

theorem State.queued_length (s : State) : s.queued.length = s.count := by simp [State.queued]

theorem State.queued_eq_nil_iff {s : State} (he : s.eqIdx < s.cap) (hs : s.sdIdx < s.cap) :
    s.queued = [] ↔ s.sdIdx = s.eqIdx := by
  rw [← List.length_eq_zero_iff, s.queued_length, s.count_eq_zero_iff he hs, eq_comm]

section
variable {s : State} (he : s.eqIdx < s.cap) (hs : s.sdIdx < s.cap)
include he hs

/-- `COUNT` does not depend on the storage, so this holds without its canonical form. -/
theorem State.count_eq_advanceSd_count_add_one (hne : s.sdIdx ≠ s.eqIdx) : s.count = s.advanceSd.count + 1 :=
  State.BufInv.count_advanceSd (s := { s with txbuf := [] }) ⟨he, hs, rfl⟩ hne

/-- The byte at `SD` is the first one queued, whatever the form of the storage. -/
theorem State.queued_eq_cons (hne : s.sdIdx ≠ s.eqIdx) : s.queued = s.byteAtSd :: s.advanceSd.queued := by
  unfold State.queued
  rw [State.count_eq_advanceSd_count_add_one he hs hne, List.range_succ_eq_map, List.map_cons, List.map_map]
  exact congrArg _ (List.map_congr_left fun k _ => congrArg s.txbuf.read (s.slot_advance_add s.sdIdx k).symm)

end

/-! ### STSEND (R142, R143) -/

theorem exec_stsend (s : State) : exec .stsend s = .next ((s.setSending true).setSat s.saturated) := rfl

/-- SAT compares the remainder of R35 with the threshold. -/
theorem State.saturated_eq (s : State) :
    s.saturated = decide ((s.satThreshold : Int) < ((s.eqIdx : Int) - (s.sdIdx : Int)) % (s.cap : Int)) := by
  rw [← s.count_cast]
  simp [State.saturated]

/-- Settles O34: STSEND's comparison, and STSEND as the only writer of SAT. -/
theorem satIsComputedAtStsendOnly : Obligations.SatIsComputedAtStsendOnly := by
  refine fun i s t hexec => ⟨?_, fun hi => ((exec_effect hexec).sat_writers).resolve_right hi⟩
  rintro rfl
  cases hexec
  exact ⟨decide_eq_true_iff, s.count_lt⟩

/-! ### TXDONE (R150) -/

section
variable {s : State} (hx : s.txie = true)
include hx

theorem exec_txdone_of_drained (h : s.sdIdx = s.eqIdx) : exec .txdone s = .next (s.setSending false) := by
  simp [exec, execTxdone, State.transmitNext, hx, h]

theorem exec_txdone_of_queued (h : s.sdIdx ≠ s.eqIdx) :
    exec .txdone s = .next (s.emit [.txbyte s.byteAtSd]).advanceSd := by
  simp [exec, execTxdone, State.transmitNext, hx, h]

end

/-- Settles O35: the two branches of R150. -/
theorem txdoneSendsOrDrains : Obligations.TxdoneSendsOrDrains := fun s hx =>
  ⟨exec_txdone_of_drained hx, exec_txdone_of_queued hx, s.slot_of_lt⟩

/-- Settles O33: STSEND does not write what it compares, and on an empty buffer the next TXDONE finds it drained. -/
theorem stsendArmsTransmission : Obligations.StsendArmsTransmission := fun s => by
  refine ⟨congrArg (fun b => Host.Outcome.next ((s.setSending true).setSat b)) s.saturated_eq, rfl, fun hempty =>
    ⟨(s.setSending false).setSat s.saturated, ?_, rfl⟩⟩
  exact (execAll_cons (exec_stsend s)).trans (execAll_cons (exec_txdone_of_drained rfl hempty.symm))

/-- Settles O32: the overflowing ENQB leaves `EQ` at `SD`, where TXDONE finds the buffer drained and the next ENQB
stores. -/
theorem overflowLosesQueuedBytes : Obligations.OverflowLosesQueuedBytes := fun s b b' he hs hwf hfull => by
  have heq : (s.storeByte b).eqIdx = s.sdIdx := State.advance_eqIdx_of_full he hs hfull
  refine ⟨s.storeByte b, (s.storeByte b).storeByte b', rfl, ?_, heq, rfl,
    State.count_storeByte_of_full he hs hfull b, fun hx => exec_txdone_of_drained hx heq.symm, rfl, ?_⟩
  · simpa only [s.slot_of_lt he] using State.read_storeByte_same b hwf
  · have hread := State.read_storeByte_same (s := s.storeByte b) b' (Memory.write_wf _ hwf _ b)
    rwa [heq, (s.storeByte b).slot_of_lt hs] at hread

end Sys2Proof.Machine
end

section
/-! PROOFS. The transmit unit, second part (41_txbuffer.md section 1, R151): after STSEND the queue is sent byte for byte,
over every run with no ENQB. -/

namespace Sys2Proof.Machine

/-! ### The state of a drain -/

/-- `Drained s is t`: with transmission armed in `s` and the operations `is` taken since, none of them ENQB, `t` is
reached. The wire and the queue are determined by the number of TXDONE steps, whatever else was taken. -/
structure Drained (s : State) (is : List Instr) (t : State) : Prop where
  eqIdx : t.eqIdx = s.eqIdx
  cap : t.cap = s.cap
  sd_lt : t.sdIdx < s.cap
  wire : t.wire = s.wire ++ s.queued.take (is.count .txdone)
  queued : t.queued = s.queued.drop (is.count .txdone)
  running : is.count .txdone ≤ s.count → t.txie = true ∧ t.sending = true
  stopped : s.count < is.count .txdone → .stsend ∉ is → t.txie = false ∧ t.sending = false

section
variable {s u t : State} {is : List Instr} {i : Instr}

/-- An operation that neither enqueues nor sends leaves the drain where it is; STSEND is the only one that arms again. -/
theorem Drained.of_ne_txdone (hd : Drained s is u) (hi : i ≠ .txdone) (heffect : Effect u i t)
    (hsame : SameFifo u t) : Drained s (is ++ [i]) t := by
  have hcount : (is ++ [i]).count .txdone = is.count .txdone := by
    rw [List.count_append, List.count_singleton, if_neg (by simpa using hi), Nat.add_zero]
  have hflags : t.txie = u.txie ∧ t.sending = u.sending ∨ i = .stsend ∧ t.txie = true ∧ t.sending = true :=
    heffect.txie_sending_writers.imp_right fun h => h.resolve_right fun h' => hi h'.1
  refine ⟨hsame.eqIdx.trans hd.eqIdx, hsame.cap.trans hd.cap, hsame.sdIdx ▸ hd.sd_lt,
    hcount ▸ hsame.wire.trans hd.wire, hcount ▸ hsame.queued_eq.trans hd.queued, fun hle => ?_, fun hlt hno => ?_⟩
  · obtain ⟨htxie, hsending⟩ | ⟨_, hon⟩ := hflags
    · rw [htxie, hsending]
      exact hd.running (hcount ▸ hle)
    · exact hon
  · obtain ⟨htxie, hsending⟩ | ⟨rfl, _⟩ := hflags
    · rw [htxie, hsending]
      exact hd.stopped (hcount ▸ hlt) fun hmem => hno (List.mem_append_left _ hmem)
    · exact absurd (List.mem_append_right _ (List.mem_singleton.2 rfl)) hno

section
variable (hd : Drained s is u) (he : s.eqIdx < s.cap)
include hd he

/-- The queue is empty exactly from the TXDONE step on that sent its last byte. -/
theorem Drained.sdIdx_eq_iff : u.sdIdx = u.eqIdx ↔ s.count ≤ is.count .txdone := by
  rw [← State.queued_eq_nil_iff (by rw [hd.eqIdx, hd.cap]; exact he) (hd.cap ▸ hd.sd_lt), hd.queued,
    List.drop_eq_nil_iff, s.queued_length]

/-- A TXDONE that finds the queue empty leaves wire and queue as they are. -/
theorem Drained.txdone_of_empty (hempty : u.sdIdx = u.eqIdx) (hsame : SameFifo u t)
    (hoff : s.count < is.count .txdone + 1 → .stsend ∉ is → t.txie = false ∧ t.sending = false) :
    Drained s (is ++ [.txdone]) t := by
  have hle : s.count ≤ is.count .txdone := (hd.sdIdx_eq_iff he).1 hempty
  have hlen : s.queued.length ≤ is.count .txdone := s.queued_length.trans_le hle
  have hcount : (is ++ [Instr.txdone]).count .txdone = is.count .txdone + 1 := by simp
  refine ⟨hsame.eqIdx.trans hd.eqIdx, hsame.cap.trans hd.cap, hsame.sdIdx ▸ hd.sd_lt, ?_, ?_, fun h => ?_,
    fun hlt hno => hoff (hcount ▸ hlt) fun hmem => hno (List.mem_append_left _ hmem)⟩
  · rw [hsame.wire, hd.wire, hcount, List.take_of_length_le hlen,
      List.take_of_length_le (Nat.le_succ_of_le hlen)]
  · rw [hsame.queued_eq, hd.queued, hcount, List.drop_of_length_le hlen,
      List.drop_of_length_le (Nat.le_succ_of_le hlen)]
  · omega

/-- A TXDONE that sends moves the first queued byte to the wire. -/
theorem Drained.txdone_of_queued (hne : u.sdIdx ≠ u.eqIdx) :
    Drained s (is ++ [.txdone]) (u.emit [.txbyte u.byteAtSd]).advanceSd := by
  have hlt : is.count .txdone < s.count := Nat.lt_of_not_le fun h => hne ((hd.sdIdx_eq_iff he).2 h)
  have hcount : (is ++ [Instr.txdone]).count .txdone = is.count .txdone + 1 := by simp
  have hcons : s.queued.drop (is.count .txdone) = u.byteAtSd :: u.advanceSd.queued :=
    hd.queued.symm.trans
      (State.queued_eq_cons (by rw [hd.eqIdx, hd.cap]; exact he) (hd.cap ▸ hd.sd_lt) hne)
  refine ⟨hd.eqIdx, hd.cap, hd.cap ▸ u.advance_lt u.sdIdx, ?_, ?_, fun _ => hd.running hlt.le, fun h => ?_⟩
  · calc (u.emit [.txbyte u.byteAtSd]).wire
        = s.wire ++ (s.queued.take (is.count .txdone) ++ [u.byteAtSd]) := by
          rw [State.wire_emit, hd.wire, List.append_assoc]; rfl
      _ = s.wire ++ s.queued.take ((is ++ [Instr.txdone]).count .txdone) := by
          rw [hcount, List.take_add, hcons]; rfl
  · rw [hcount, ← List.drop_drop, hcons]; rfl
  · omega

/-- One operation of a run with no ENQB. -/
theorem Drained.exec (hi : ∀ b, i ≠ .enqb b) (h : exec i u = .next t) : Drained s (is ++ [i]) t := by
  have heffect : Effect u i t := exec_effect h
  by_cases htx : i = .txdone
  · subst htx
    obtain ⟨_, hempty, rfl⟩ | ⟨_, hne, rfl⟩ | ⟨hoff, rfl⟩ := execTxdone_cases h
    · exact hd.txdone_of_empty he hempty ⟨rfl, rfl, rfl, rfl, rfl⟩ fun _ _ => ⟨rfl, rfl⟩
    · exact hd.txdone_of_queued he hne
    · have hlt : s.count < is.count .txdone := Nat.lt_of_not_le fun hle => by simp [hd.running hle] at hoff
      exact hd.txdone_of_empty he ((hd.sdIdx_eq_iff he).2 hlt.le) ⟨rfl, rfl, rfl, rfl, rfl⟩ fun _ => hd.stopped hlt
  · obtain ⟨b, rfl, _⟩ | ⟨rfl, _⟩ | ⟨_, hsame⟩ := heffect.fifo_cases
    · exact absurd rfl (hi b)
    · exact absurd rfl htx
    · exact hd.of_ne_txdone htx heffect hsame

end

/-- Every run with no ENQB drains the queue, by induction on the operations still to come. -/
theorem Drained.run {js : List Instr} (hd : Drained s is u) (he : s.eqIdx < s.cap) (hjs : ∀ b, .enqb b ∉ js) :
    ∃ t, execAll js u = .next t ∧ Drained s (is ++ js) t := by
  induction js generalizing is u with
  | nil => exact ⟨u, rfl, by rwa [List.append_nil]⟩
  | cons j js ih =>
    obtain ⟨v, hv⟩ := exec_total j u
    have hstep : Drained s (is ++ [j]) v := hd.exec he (fun b hb => hjs b (hb ▸ List.mem_cons_self)) hv
    obtain ⟨t, ht, hdrained⟩ := ih hstep fun b hb => hjs b (List.mem_cons_of_mem j hb)
    exact ⟨t, (execAll_cons hv).trans ht, by rwa [List.append_assoc] at hdrained⟩

end

/-- Right after STSEND nothing is sent yet. -/
theorem drained_stsend {s : State} (hs : s.sdIdx < s.cap) : Drained s [] ((s.setSending true).setSat s.saturated) :=
  ⟨rfl, rfl, hs, (List.append_nil _).symm, rfl, fun _ => ⟨rfl, rfl⟩, fun h => absurd h (Nat.not_lt_zero _)⟩

/-! ### TXDONE steps and nothing else -/

/-- With nothing interleaved, the log and `SD` are all that sending the queue changes. -/
theorem execAll_replicate_txdone {s : State} (he : s.eqIdx < s.cap) (hs : s.sdIdx < s.cap) (hx : s.txie = true) :
    execAll (List.replicate s.count .txdone) s
      = .next { s with evtLog := s.evtLog ++ s.queued.map Event.txbyte, sdIdx := s.eqIdx } := by
  induction hn : s.count generalizing s with
  | zero =>
    have hempty : s.eqIdx = s.sdIdx := (s.count_eq_zero_iff he hs).1 hn
    have hqueued : s.queued = [] := (State.queued_eq_nil_iff he hs).2 hempty.symm
    rw [hqueued, List.map_nil, List.append_nil]
    exact congrArg (fun k => Host.Outcome.next { s with sdIdx := k }) hempty.symm
  | succ n ih =>
    have hne : s.sdIdx ≠ s.eqIdx := fun h =>
      Nat.succ_ne_zero n (hn.symm.trans ((s.count_eq_zero_iff he hs).2 h.symm))
    have hcount : s.advanceSd.count = n :=
      Nat.succ_injective ((State.count_eq_advanceSd_count_add_one he hs hne).symm.trans hn)
    rw [List.replicate_succ, execAll_cons (exec_txdone_of_queued hx hne),
      ih (s := (s.emit [.txbyte s.byteAtSd]).advanceSd) he (s.advance_lt s.sdIdx) hx hcount,
      State.queued_eq_cons he hs hne, List.map_cons, List.append_cons]
    rfl

theorem execAll_append {is js : List Instr} {s t : State} (h : execAll is s = .next t) :
    execAll (is ++ js) s = execAll js t := by
  induction is generalizing s with
  | nil => cases h; rfl
  | cons i is ih =>
    obtain ⟨u, hu⟩ := exec_total i s
    rw [List.cons_append, execAll_cons hu, ih (execAll_cons hu ▸ h)]

/-- Settles O37: the wire and the queue of a run by `Drained`, the whole next state by the run of TXDONE steps alone. -/
theorem drainSendsEveryQueuedByte : Obligations.DrainSendsEveryQueuedByte := fun s he hs => by
  have hsent := execAll_replicate_txdone (s := (s.setSending true).setSat s.saturated) he hs rfl
  refine ⟨s.queued_length, fun is his => ?_, ⟨_, (execAll_cons (exec_stsend s)).trans hsent, rfl⟩, ?_⟩
  · obtain ⟨t, ht, hd⟩ := (drained_stsend hs).run he his
    rw [List.nil_append] at hd
    have hall (h : s.count ≤ is.count .txdone) : t.sdIdx = t.eqIdx ∧ t.queued = [] :=
      ⟨(hd.sdIdx_eq_iff he).2 h, by rw [hd.queued, List.drop_of_length_le (by rwa [s.queued_length])]⟩
    refine ⟨t, (execAll_cons (exec_stsend s)).trans ht, fun hle => ⟨hd.wire, hd.queued, hd.running hle⟩, fun heq => ?_,
      fun hlt => ?_⟩
    · obtain ⟨hempty, hqueued⟩ := hall heq.ge
      obtain ⟨hx, _⟩ := hd.running heq.le
      exact ⟨t.setSending false, exec_txdone_of_drained hx hempty, rfl, hqueued, rfl, rfl, rfl⟩
    · obtain ⟨hempty, hqueued⟩ := hall hlt.le
      refine ⟨?_, hqueued, hempty.trans hd.eqIdx, fun hno => ?_⟩
      · rw [hd.wire, List.take_of_length_le (by rw [s.queued_length]; exact hlt.le)]
      · obtain ⟨hx, hsending⟩ := hd.stopped hlt hno
        exact ⟨hx, hsending, hx⟩
  · refine ⟨_, ?_, rfl, rfl⟩
    rw [List.replicate_succ', execAll_cons (exec_stsend s)]
    exact (execAll_append hsent).trans (execAll_cons (exec_txdone_of_drained rfl rfl))

end Sys2Proof.Machine
end

section
/-! PROOFS. The transmit unit, third part (41_txbuffer.md section 2): the records of ENQ16LE (R160, R164, R165). -/

namespace Sys2Proof.Machine

/-! ### The two bytes of a value (R160) -/

theorem lowByte_eq (v : Word) : v.extractLsb' 0 8 = BitVec.ofNat 8 (v.toNat % 256) := by
  apply BitVec.eq_of_toNat_eq
  simp

theorem highByte_eq (v : Word) : v.extractLsb' 8 8 = BitVec.ofNat 8 (v.toNat / 256) := by
  apply BitVec.eq_of_toNat_eq
  simp [Nat.shiftRight_eq_div_pow]

/-- A value is its low byte plus 256 times its high byte. -/
theorem toNat_eq_low_add_high (v : Word) :
    v.toNat = (v.extractLsb' 0 8).toNat + 256 * (v.extractLsb' 8 8).toNat := by
  have hv := v.isLt
  simp only [lowByte_eq, highByte_eq, BitVec.toNat_ofNat]
  omega

theorem State.one_lt_cap (s : State) (hk : 1 ≤ s.capLog2) : 1 < s.cap :=
  Nat.one_lt_two_pow (Nat.one_le_iff_ne_zero.1 hk)

/-- Neighbouring places of the storage are two, since CAP is 2 or more (R7). -/
theorem State.slot_succ_ne (s : State) (hk : 1 ≤ s.capLog2) (x : Nat) : s.slot (x + 1) ≠ s.slot x :=
  fun h => Nat.one_ne_zero (s.slot_add_inj (s.one_lt_cap hk) s.cap_pos h)

/-! ### Two ENQB in a row, and a TXDONE between them -/

/-- A second ENQB stores at the place after the first one's. -/
theorem State.slot_storeByte_eqIdx (s : State) (b : Byte) :
    (s.storeByte b).slot (s.storeByte b).eqIdx = s.slot (s.eqIdx + 1) :=
  s.slot_advance_add s.eqIdx 0

section
variable {s : State} (b0 b1 : Byte)

theorem State.read_storeByte_storeByte_other {a : Nat} (h0 : a ≠ s.slot s.eqIdx) (h1 : a ≠ s.slot (s.eqIdx + 1)) :
    ((s.storeByte b0).storeByte b1).txbuf.read a = s.txbuf.read a :=
  (State.read_storeByte_other b1 ((s.slot_storeByte_eqIdx b0).symm ▸ h1)).trans (State.read_storeByte_other b0 h0)

theorem State.read_storeByte_storeByte_first (hwf : s.txbuf.wf = true) (hk : 1 ≤ s.capLog2) :
    ((s.storeByte b0).storeByte b1).txbuf.read (s.slot s.eqIdx) = b0 := by
  have hne : s.slot s.eqIdx ≠ (s.storeByte b0).slot (s.storeByte b0).eqIdx := by
    rw [s.slot_storeByte_eqIdx b0]
    exact (s.slot_succ_ne hk s.eqIdx).symm
  exact (State.read_storeByte_other b1 hne).trans (State.read_storeByte_same b0 hwf)

theorem State.read_storeByte_storeByte_second (hwf : s.txbuf.wf = true) :
    ((s.storeByte b0).storeByte b1).txbuf.read (s.slot (s.eqIdx + 1)) = b1 := by
  rw [← s.slot_storeByte_eqIdx b0]
  exact State.read_storeByte_same b1 (Memory.write_wf _ hwf _ b0)

/-- ENQB into an empty buffer: its byte is the only one queued, and the one at `SD`. -/
theorem State.BufInv.storeByte_of_empty (hs : s.BufInv) (hcap : 1 < s.cap) (h0 : s.count = 0) :
    (s.storeByte b0).sdIdx ≠ (s.storeByte b0).eqIdx ∧ (s.storeByte b0).byteAtSd = b0
      ∧ (s.storeByte b0).advanceSd.queued = [] := by
  have hlow : (s.storeByte b0).BufInv := hs.storeByte b0
  have hqueued : (s.storeByte b0).queued = [b0] := by
    rw [hs.queued_storeByte b0 (by omega), List.length_eq_zero_iff.1 (s.queued_length.trans h0), List.nil_append]
  have hne : (s.storeByte b0).sdIdx ≠ (s.storeByte b0).eqIdx := fun h =>
    List.cons_ne_nil b0 [] (hqueued.symm.trans ((State.queued_eq_nil_iff hlow.eq_lt hlow.sd_lt).2 h))
  obtain ⟨hbyte, hsent⟩ := List.cons.inj (hqueued.symm.trans (hlow.queued_advanceSd hne))
  exact ⟨hne, hbyte.symm, hsent.symm⟩

end

/-- Settles O40: each byte is read back from its own place, the second after it wraps. -/
theorem enq16leNetEffect : Obligations.Enq16leNetEffect := fun s v hwf hk => by
  rw [← lowByte_eq, ← highByte_eq]
  exact ⟨rfl, _, rfl, State.read_storeByte_storeByte_first _ _ hwf hk, State.read_storeByte_storeByte_second _ _ hwf,
    fun _ => State.read_storeByte_storeByte_other _ _, Nat.mod_add_mod _ _ _, rfl⟩

/-- Settles O41: the TXDONE finds the low byte alone in the buffer, and the high byte goes into the emptied one. -/
theorem txdoneBetweenTheBytesOfARecord : Obligations.TxdoneBetweenTheBytesOfARecord := fun s v hs hx h0 => by
  obtain ⟨_, _, _, hk, _⟩ := s.config_wf_iff.1 hs.config_wf
  have hcap : 1 < s.cap := s.one_lt_cap hk
  obtain ⟨hne, hbyte, hsent⟩ := hs.bufInv.storeByte_of_empty (v.extractLsb' 0 8) hcap h0
  refine ⟨_, execAll_cons (exec_txdone_of_queued (s := s.storeByte _) hx hne), ?_, hsent, hx, _, rfl, rfl, ?_⟩
  · rw [hbyte]
    exact State.wire_emit _ _
  · have hroom : (s.storeByte (v.extractLsb' 0 8)).advanceSd.count ≠ s.cap - 1 := by
      rw [← State.queued_length, hsent]
      exact (Nat.sub_pos_of_lt hcap).ne
    exact ((hs.bufInv.storeByte _).advanceSd.queued_storeByte _ hroom).trans (by rw [hsent]; rfl)

/-- Settles O42: FIFO delivery, with the two bytes as all that is enqueued. -/
theorem enq16leRoundTrip : Obligations.Enq16leRoundTrip := fun s t v is hs hroom henq hs0 h ht0 => by
  have hfifo := execAll_wire_append_queued hs.bufInv hroom h
  rw [hs0, ht0, henq, List.append_nil, List.append_nil] at hfifo
  exact ⟨_, _, hfifo, toNat_eq_low_add_high v⟩

end Sys2Proof.Machine
end

section
/-! PROOFS. The control operations (42_control.md): NOP and the reserved words of its opcode (R180). -/

namespace Sys2Proof.Machine

/-- R180: with `OPC = 0`, every word but NOP's own is reserved. -/
theorem decode_cmd_opc_zero_eq_none (nSw : Nat) {w : Word} (hne : w ≠ 0#16) (hopc : w.toNat < 4096) :
    decode nSw .cmd w = none := by
  have hdiv : w.toNat / 4096 = 0 := Nat.div_eq_of_lt hopc
  have hmod : w.toNat % 4096 ≠ 0 := by
    rw [Nat.mod_eq_of_lt hopc]
    exact fun h => hne (BitVec.eq_of_toNat_eq h)
  exact (reservedWordsChangeNothing.1 nSw .cmd w).2 (.inr (.inr (.inr (.inl ⟨by simp [hdiv], hmod⟩))))

/-- Settles O16: NOP's word is the one its encoding gives, and the step's equation for a reserved word covers the other
words of its opcode. -/
theorem nopKeepsEveryElement : Obligations.NopKeepsEveryElement :=
  ⟨fun _ => rfl, fun nSw => decodeOfEncode nSw .nop rfl, fun s _ _ hwf hne hopc =>
    step_of_decode_none hwf rfl (decode_cmd_opc_zero_eq_none s.nSw hne hopc)⟩

end Sys2Proof.Machine
end

section
/-! PROOFS. The exceptions, first part (60_exceptions.md sections 1 and 2): no operation has an exception outcome (R200),
and which step may be taken next (R203). -/

namespace Sys2Proof.Machine

/-- Settles O12: the totality of the meanings and of the step. -/
theorem noOperationStops : Obligations.NoOperationStops :=
  ⟨exec_total, fun _ => step_total⟩

/-! ### The scheduling restriction (R203) -/

theorem State.anyEdge_iff (s : State) : s.anyEdge = true ↔ ∃ w ∈ s.switches, w.edgePend = true := List.any_eq_true

/-- R203's order among the service steps, highest first TXDONE, EDGE, TICK: `i` stands below one that is enabled. -/
def State.HeldBack (s : State) (i : Instr) : Prop :=
  (i = .tick ∧ ((∃ w ∈ s.switches, w.edgePend = true) ∨ s.txie = true)) ∨ ((∃ n, i = .edge n) ∧ s.txie = true)

/-- An operation is not admitted exactly where `PRIORITY` is ON and the order of R203 holds it back. -/
theorem State.admits_eq_false_iff (s : State) (i : Instr) :
    s.admits i = false ↔ s.priority = true ∧ s.HeldBack i := by
  cases i with
  | tick =>
    simp only [State.admits, State.HeldBack, ← State.anyEdge_iff]
    cases s.anyEdge <;> simp
  | edge n => simp [State.admits, State.HeldBack]
  | _ => simp [State.admits, State.HeldBack]

/-- Settles O10: the word of a well-formed operation decodes to it, and the step then asks `admits` alone, which does not
read the words to come. -/
theorem schedulingAndPriority : Obligations.SchedulingAndPriority := by
  refine ⟨fun s i rest hwf hi => ?_, rfl⟩
  have hd : decode s.nSw i.port (encode i) = some i := decodeOfEncode s.nSw i hi
  have htaken (h : ¬ (s.priority = true ∧ s.HeldBack i)) :
      step { s with trace := ⟨i.port, encode i⟩ :: rest } = exec i { s with trace := rest } :=
    step_of_admits hwf rfl hd (Bool.of_not_eq_false fun hf => h ((State.admits_eq_false_iff _ i).1 hf))
  refine ⟨fun hoff => htaken fun h => ?_, fun hon => ⟨fun hheld => ?_, fun hfree => htaken fun h => hfree h.2⟩⟩
  · cases hoff.symm.trans h.1
  · exact step_of_not_admits hwf rfl hd ((State.admits_eq_false_iff _ i).2 ⟨hon, hheld⟩)

end Sys2Proof.Machine
end

section
/-! PROOFS. The exceptions, second part (60_exceptions.md section 4, R216): the service steps are bounded by the work
left, and while a state is not quiescent one of them may be taken. -/

namespace Sys2Proof.Machine

/-! ### The work left for one debouncer -/

/-- The debouncer's share of `State.work`: its pending edge and the ticks it still needs. -/
def Switch.work (w : Switch) : Nat := (if w.edgePend then 1 else 0) + w.ticksLeft

/-- The transmit unit's share of `State.work`: one TXDONE for each byte queued, and the one that stops. -/
def State.txWork (s : State) : Nat := if s.txie then s.count + 1 else 0

theorem State.work_eq (s : State) : s.work = (s.switches.map Switch.work).sum + s.txWork := rfl

theorem Switch.arms_iff (w : Switch) : w.arms = true ↔ w.state = .expects w.level := by
  unfold Switch.arms
  cases w.state <;> cases w.level <;> decide

theorem Switch.seed_of_expects {w : Switch} {l : Bool} (h : w.state = .expects l) : w.seed = w.bounce l := by
  cases l <;> simp [Switch.seed, h, Fsm.expects, Switch.bounce]

section
variable {w : Switch} {l : Bool}

theorem Switch.ticksLeft_of_validates (h : w.state = .validates l) : w.ticksLeft = max 1 w.cnt.toInt.toNat :=
  if_pos (by simp [Switch.validating, h])

/-- A debouncer that awaits the other level needs no tick. -/
theorem Switch.ticksLeft_of_expects_not (h : w.state = .expects (!w.level)) : w.ticksLeft = 0 := by
  have harms : w.arms = false := by
    rw [Bool.eq_false_iff, ne_eq, Switch.arms_iff, h]
    cases w.level <;> decide
  simp [Switch.ticksLeft, Switch.validating, h, harms]

/-- A pending edge that will arm the debouncer costs the ticks of its settle duration. -/
theorem Switch.ticksLeft_of_expects (h : w.state = .expects w.level) (he : w.edgePend = true) :
    w.ticksLeft = max 1 (w.bounce w.level) := by
  have hv : w.validating = false := by simp [Switch.validating, h]
  simp [Switch.ticksLeft, hv, he, w.arms_iff.2 h, Switch.seed_of_expects h]

end

/-! ### What TICK and EDGE do to the work left -/

/-- A tick takes at least one off the work of a validating debouncer, and leaves any other alone. -/
theorem tickSwitch_work_add_le (i : Nat) {w : Switch} (hw : w.Inv) :
    (tickSwitch i w).1.work + (if w.validating then 1 else 0) ≤ w.work := by
  cases hv : w.validating with
  | false => rw [tickSwitch_of_not_validating i w hv]; exact le_rfl
  | true =>
    obtain ⟨hnonneg, _⟩ := hw.cnt_le hv
    have htick : tickSwitch i w = dbstep i w w.level := if_pos hv
    have hrow := dbstep_row i w w.level
    rw [htick]
    generalize dbstep i w w.level = r at hrow ⊢
    cases hrow with
    | arms h | waits h => simp [Switch.validating, h] at hv
    | counts h hc =>
      have hdec : (decrement w.cnt).toInt = w.cnt.toInt - 1 := decrement_toInt w.cnt (by omega)
      simp only [Switch.work, Switch.ticksLeft_of_validates h,
        Switch.ticksLeft_of_validates (w := { w with cnt := decrement w.cnt }) h, hdec, if_true]
      omega
    | ends h =>
      have hnone : Switch.ticksLeft
          { w with cnt := decrement w.cnt, state := .expects (!w.level), out := w.level } = 0 :=
        Switch.ticksLeft_of_expects_not rfl
      simp only [Switch.work, Switch.ticksLeft_of_validates h, hnone, if_true]
      omega
    | aborts h =>
      have hnone : Switch.ticksLeft { w with state := .expects (!w.level) } = 0 :=
        Switch.ticksLeft_of_expects_not rfl
      simp only [Switch.work, Switch.ticksLeft_of_validates h, hnone, if_true]
      omega

/-- Over all debouncers a tick takes at least one off for each that validates. -/
theorem tickAll_work_add_le (i : Nat) {ws : List Switch} (hws : ∀ w ∈ ws, w.Inv) :
    ((tickAll i ws).1.map Switch.work).sum + ws.countP Switch.validating ≤ (ws.map Switch.work).sum := by
  induction ws generalizing i with
  | nil => exact le_rfl
  | cons w ws ih =>
    obtain ⟨hw, hrest⟩ := List.forall_mem_cons.1 hws
    have hfst := tickSwitch_work_add_le i hw
    have hsnd := ih (i + 1) hrest
    simp only [tickAll, List.map_cons, List.sum_cons, List.countP_cons]
    omega

/-- The edge service takes the pending edge off the work: the ticks of the validation it starts were counted before. -/
theorem edgeSwitch_work_add_one (i : Nat) {w : Switch} (he : w.edgePend = true) (hb : ∀ l, w.bounce l ≤ 32767) :
    (edgeSwitch i w).1.work + 1 ≤ w.work := by
  by_cases h : w.state = .expects w.level
  · rw [edgeSwitch_of_expects i h rfl]
    have hcnt : (BitVec.ofNat 16 (w.bounce w.level)).toInt = w.bounce w.level := toInt_ofNat_of_le (hb w.level)
    rw [Switch.work, Switch.work, Switch.ticksLeft_of_validates (l := w.level) rfl, Switch.ticksLeft_of_expects h he,
      hcnt]
    simp [he, Nat.add_comm]
  · rw [edgeSwitch_of_not_expects i h]
    have harms : w.arms = false := Bool.eq_false_iff.2 fun ha => h (w.arms_iff.1 ha)
    have hticks : Switch.ticksLeft { w with edgePend := false } = w.ticksLeft := by
      simp [Switch.ticksLeft, Switch.validating, harms]
    simp [Switch.work, hticks, he, Nat.add_comm]

/-- Writing one debouncer exchanges its work in the sum. -/
theorem sum_work_set {ws : List Switch} {n : Nat} {w : Switch} (w' : Switch) (hw : ws[n]? = some w) :
    ((ws.set n w').map Switch.work).sum + w.work = (ws.map Switch.work).sum + w'.work := by
  induction ws generalizing n with
  | nil => cases hw
  | cons x ws ih =>
    cases n with
    | zero =>
      cases hw
      simp only [List.set_cons_zero, List.map_cons, List.sum_cons]
      omega
    | succ n =>
      have hrest := ih (n := n) hw
      simp only [List.set_cons_succ, List.map_cons, List.sum_cons]
      omega

/-! ### What a step does to the work left -/

/-- The operations of R216: the service steps, and those of the producer that neither enqueue nor start. -/
def AddsNoWork (i : Instr) : Prop :=
  serviceStep i = true ∨ i = .nop ∨ (∃ n, i = .rdlvl n) ∨ ∃ r, i = .rdreg r

theorem State.legal_eq_false {s : State} {i : Instr} (h : s.enabled i = false ∨ i.wf s.nSw = false) :
    s.legal i = false := by
  obtain h | h := h <;> simp [State.legal, h]

section
variable {i : Instr} {s t : State} (h : Effect s i t) (hs : Inv s) (hlegal : s.legal i = true) (hi : AddsNoWork i)
include h hs hlegal hi

/-- Only TXDONE changes the transmit unit's share, and lowers it. -/
theorem Effect.txWork_add_le : t.txWork + (if i == .txdone then 1 else 0) ≤ s.txWork := by
  cases h with
  | unchanged hnot => simp [State.legal_eq_false hnot] at hlegal
  | enqb | stsend => simp [AddsNoWork, serviceStep] at hi
  | txdoneDrained hx => simp [State.txWork, hx]
  | txdoneSends hx hne =>
    have hcount := State.count_eq_advanceSd_count_add_one hs.eq_lt hs.sd_lt hne
    have hsent : (s.emit [.txbyte s.byteAtSd]).advanceSd.count = s.advanceSd.count := rfl
    simp [State.txWork, hx, hsent, hcount]
  | _ => exact le_rfl

/-- A service step lowers the work, and a read leaves it. -/
theorem Effect.work_add_le : t.work + (if serviceStep i then 1 else 0) ≤ s.work := by
  have htx := h.txWork_add_le hs hlegal hi
  rw [State.work_eq, State.work_eq]
  cases h with
  | unchanged hnot => simp [State.legal_eq_false hnot] at hlegal
  | enqb | stsend | input => simp [AddsNoWork, serviceStep] at hi
  | nop | rdlvl | rdreg => exact le_rfl
  | txdoneDrained | txdoneSends => exact Nat.add_le_add_left htx _
  | @edge n w hw he =>
    have hedge := edgeSwitch_work_add_one n.toNat he (hs.bounce_le (List.mem_of_getElem? hw))
    have hset := sum_work_set (edgeSwitch n.toNat w).1 hw
    have hsame : (s.serviceEdge n.toNat w).txWork = s.txWork := rfl
    simp only [State.serviceEdge_switches, hsame, serviceStep, if_true]
    omega
  | tick hp =>
    have htick := tickAll_work_add_le 0 hs.switches_inv
    have hsome : 0 < s.switches.countP Switch.validating :=
      List.countP_pos_iff.2 (List.any_eq_true.1 (hs.poll_eq.symm.trans hp))
    have hsame : s.tick.txWork = s.txWork := rfl
    simp only [State.tick_switches, hsame, serviceStep, if_true]
    omega

end

/-- A measure that no step of a run raises, and each step of one kind lowers, bounds the steps of that kind. -/
theorem LegalRun.countP_le {p : Instr → Bool} {m : State → Nat}
    (hstep : ∀ {i s t}, Effect s i t → Inv s → s.legal i = true → AddsNoWork i → m t + (if p i then 1 else 0) ≤ m s)
    {is : List Instr} {s : State} (hs : Inv s) (hrun : LegalRun is s) (his : ∀ i ∈ is, AddsNoWork i) :
    is.countP p ≤ m s := by
  induction is generalizing s with
  | nil => exact Nat.zero_le _
  | cons i is ih =>
    obtain ⟨t, ht⟩ := exec_total i s
    obtain ⟨hlegal, hrest⟩ := (Along_cons ht).1 hrun
    obtain ⟨hi, his⟩ := List.forall_mem_cons.1 his
    calc (i :: is).countP p
        = is.countP p + (if p i then 1 else 0) := List.countP_cons
      _ ≤ m t + (if p i then 1 else 0) := Nat.add_le_add_right (ih (hs.exec ht) hrest his) _
      _ ≤ m s := hstep (exec_effect ht) hs hlegal hi

/-! ### Quiescence -/

theorem State.quiescent_iff (s : State) :
    s.quiescent = true ↔ s.anyEdge = false ∧ s.pollEn = false ∧ s.txie = false := by
  simp [State.quiescent, and_assoc]

/-- A debouncer's index fits the operand of its EDGE, `N_SW` being at most 16 (R7). -/
theorem Inv.exists_edge {s : State} (hs : Inv s) (he : s.anyEdge = true) :
    ∃ n : BitVec 4, (Instr.edge n).wf s.nSw = true ∧ s.enabled (.edge n) = true := by
  obtain ⟨w, hw, hpend⟩ := s.anyEdge_iff.1 he
  obtain ⟨j, hj⟩ := List.mem_iff_getElem?.1 hw
  have hlt : j < s.nSw := (List.getElem?_eq_some_iff.1 hj).1
  obtain ⟨_, hlen, _⟩ := s.config_wf_iff.1 hs.config_wf
  have hn : (BitVec.ofNat 4 j).toNat = j := by
    rw [BitVec.toNat_ofNat]
    exact Nat.mod_eq_of_lt (hlt.trans_le hlen)
  refine ⟨BitVec.ofNat 4 j, ?_, ?_⟩
  · simp [Instr.wf, hlt, hn]
  · exact (s.edgePending_iff _).2 ⟨w, hn.symm ▸ hj, hpend⟩

/-- While a state is not quiescent, the service highest in R203's order among those enabled may be taken. -/
theorem Inv.exists_legal_service {s : State} (hs : Inv s) (hq : s.quiescent = false) :
    ∃ i : Instr, serviceStep i = true ∧ s.legal i = true := by
  cases hx : s.txie with
  | true => exact ⟨.txdone, rfl, by simp [State.legal, Instr.wf, State.enabled, State.admits, hx]⟩
  | false =>
    cases he : s.anyEdge with
    | true =>
      obtain ⟨n, hwf, hen⟩ := hs.exists_edge he
      exact ⟨.edge n, rfl, by simp [State.legal, hwf, hen, State.admits, hx]⟩
    | false =>
      have hp : s.pollEn = true := by simpa [State.quiescent, he, hx] using hq
      exact ⟨.tick, rfl, by simp [State.legal, Instr.wf, State.enabled, State.admits, hx, he, hp]⟩

theorem State.not_enabled_of_quiescent {s : State} {i : Instr} (hq : s.quiescent = true) (hi : serviceStep i = true) :
    s.enabled i = false := by
  obtain ⟨he, hp, hx⟩ := s.quiescent_iff.1 hq
  cases i with
  | edge n =>
    refine Bool.eq_false_iff.2 fun hpend => ?_
    obtain ⟨w, hw, hw'⟩ := (s.edgePending_iff n.toNat).1 hpend
    cases he.symm.trans (s.anyEdge_iff.2 ⟨w, List.mem_of_getElem? hw, hw'⟩)
  | tick => exact hp
  | txdone => exact hx
  | _ => cases hi

/-- Settles O50: `work` bounds the service steps, its TXDONE share the TXDONE steps; then progress and rest. -/
theorem quiescenceIsReached : Obligations.QuiescenceIsReached := by
  refine ⟨fun s is hs hrun his => ⟨?_, ?_⟩, fun _ => Inv.exists_legal_service,
    fun _ _ => State.not_enabled_of_quiescent⟩
  · rw [← List.countP_eq_length_filter]
    exact hrun.countP_le Effect.work_add_le hs his
  · exact hrun.countP_le (m := State.txWork) Effect.txWork_add_le hs his

end Sys2Proof.Machine
end

section
/-! PROOFS. Reset and hazards (70_reset_and_hazards.md): the reset state (R230) and its invariant (R112), a button held
at reset (R234), and the condition under which a record never overflows the buffer (R240). -/

namespace Sys2Proof.Machine

/-! ### The reset state (R230) -/

section
variable (c : Config)

@[simp] theorem State.resetOf_switches : (State.resetOf c).switches = c.switches.map Switch.reset := rfl

theorem State.resetOf_getElem? {j : Nat} {p : SwitchParams} (hp : c.switches[j]? = some p) :
    (State.resetOf c).switches[j]? = some (Switch.reset p) := by
  simp [hp]

/-- The configuration is read back from the reset state as it was launched. -/
@[simp] theorem State.resetOf_config : (State.resetOf c).config = c := by
  have hpar : Switch.par ∘ Switch.reset = id := rfl
  simp [State.config, State.resetOf, hpar]

@[simp] theorem State.resetOf_count : (State.resetOf c).count = 0 :=
  (State.count_eq_zero_iff _ (State.cap_pos _) (State.cap_pos _)).2 rfl

/-- No edge is pending at reset, whatever the lines (R24). -/
@[simp] theorem State.resetOf_edgePending (j : Nat) : (State.resetOf c).edgePending j = false := by
  refine (State.edgePending_eq_false_iff _ j).2 fun w hw => ?_
  obtain ⟨p, _, rfl⟩ := List.mem_map.1 (List.mem_of_getElem? hw)
  rfl

/-- At reset every debouncer is in ExpectHigh, so none validates. -/
@[simp] theorem pollNeeded_map_reset (ps : List SwitchParams) : pollNeeded (ps.map Switch.reset) = false := by
  simp [pollNeeded, Switch.validating, Switch.reset, Fsm.validating]

/-- At reset exactly the command words and INPUT are enabled. -/
theorem State.resetOf_enabled_iff (i : Instr) :
    (State.resetOf c).enabled i = true ↔ i.port = .cmd ∨ ∃ n v, i = .input n v := by
  cases i with
  | nop | enqb | stsend | rdlvl | rdreg => exact iff_of_true rfl (.inl rfl)
  | input n v => exact iff_of_true rfl (.inr ⟨n, v, rfl⟩)
  | edge n => simp [State.enabled, Instr.port]
  | tick | txdone => simp [State.enabled, State.resetOf, Instr.port]

/-- Settles O48: each value by the definition of the reset state, COUNT and the enabled operations by their lemmas. -/
theorem resetLeavesTheseValues : Obligations.ResetLeavesTheseValues := fun c =>
  ⟨State.resetOf_config c, fun _ p hp => ⟨Switch.reset p, State.resetOf_getElem? c hp, rfl, rfl, rfl, rfl, rfl⟩,
    rfl, fun _ => rfl, rfl, rfl, rfl, rfl, rfl, rfl, rfl, State.resetOf_count c, State.resetOf_enabled_iff c⟩

end

/-- R112 (a) and (c) of a debouncer at reset: ExpectHigh with output Low, and the counter 0. -/
theorem Switch.reset_inv (p : SwitchParams) : (Switch.reset p).Inv where
  out_eq := by simp [Switch.reset, Fsm.bits]
  cnt_ge := by simp [Switch.reset]
  cnt_le h := nomatch h
  cnt_zero h := nomatch h

/-- Settles O44: both indices are 0, the storage is empty, and no debouncer validates. -/
theorem invariantAfterReset : Obligations.InvariantAfterReset := fun c hc => {
  config_wf := (State.resetOf_config c).symm ▸ hc
  eq_lt := State.cap_pos _
  sd_lt := State.cap_pos _
  buf_wf := rfl
  buf_lt := fun _ h => nomatch h
  switches_inv := List.forall_mem_map.2 fun p _ => Switch.reset_inv p
  poll_eq := (pollNeeded_map_reset c.switches).symm }

/-! ### A button held at reset (R234) -/

/-- A change of the line followed by its edge service: the debouncer is serviced at the new line, no event is emitted,
and `POLL_EN` is the poll-enable function. -/
theorem execAll_input_edge {s : State} {n : BitVec 4} {w : Switch} {v : Bool} (hw : s.switches[n.toNat]? = some w)
    (hv : v ≠ w.line) : ∃ t, execAll [.input n v, .edge n] s = .next t
      ∧ t.switches[n.toNat]? = some (edgeSwitch n.toNat { w with line := v, edgePend := true }).1
      ∧ t.evtLog = s.evtLog ∧ t.pollEn = pollNeeded t.switches := by
  have hlt : n.toNat < s.switches.length := (List.getElem?_eq_some_iff.1 hw).1
  have hinput := execInput_of_switch v hw
  rw [inputSwitch_of_ne hv] at hinput
  have hmid : (s.setSwitch n.toNat { w with line := v, edgePend := true }).switches[n.toNat]?
      = some { w with line := v, edgePend := true } := List.getElem?_set_self hlt
  refine ⟨_, (execAll_cons hinput).trans (execAll_cons (execEdge_of_switch hmid rfl)), ?_, ?_, rfl⟩
  · exact List.getElem?_set_self (by simpa using hlt)
  · simp [State.serviceEdge]

/-- Settles O49: the release leaves the debouncer in ExpectHigh, which awaits the level of the press. -/
theorem buttonHeldAtResetIsNotReported : Obligations.ButtonHeldAtResetIsNotReported := fun c n p hp hheld => by
  have hreset := State.resetOf_getElem? c hp
  have hrelease : p.activeLow ≠ (Switch.reset p).line := fun h => by
    have hline : p.activeLow = p.initLine := h
    simp [hline] at hheld
  obtain ⟨t, ht, hw, hlog, _⟩ := execAll_input_edge hreset hrelease
  rw [edgeSwitch_of_not_expects _ (by simp [Switch.reset, Switch.level, Fsm.expects])] at hw
  obtain ⟨u, hu, hw', _, hpoll⟩ := execAll_input_edge hw (Bool.not_ne_self p.activeLow)
  rw [edgeSwitch_of_expects (l := true) _ rfl (by simp [Switch.reset, Switch.level])] at hw'
  refine ⟨State.resetOf_edgePending c n.toNat, execRdlvl_of_switch hreset, t, u, _, _, ht, hw, rfl, rfl, hlog, hu,
    hw', rfl, hpoll.trans ?_⟩
  exact (pollNeeded_iff _).2 ⟨_, List.mem_of_getElem? hw', .inl rfl⟩

/-! ### A record with room (R240) -/

/-- An operation without overflow adds to `COUNT` the byte it enqueues at most. -/
theorem Effect.count_le {i : Instr} {s t : State} (h : Effect s i t) (hs : s.BufInv) (hroom : s.overflows i = false) :
    t.count ≤ s.count + (enqueued [i]).length := by
  obtain ⟨b, rfl, rfl⟩ | ⟨_, hne, rfl⟩ | ⟨_, hsame⟩ := h.fifo_cases
  · exact (hs.count_storeByte b (by simpa [State.overflows] using hroom)).le
  · have hcount := hs.count_advanceSd hne
    have hsent : (s.emit [.txbyte s.byteAtSd]).advanceSd.count = s.advanceSd.count := rfl
    omega
  · rw [← t.queued_length, hsame.queued_eq, s.queued_length]
    exact Nat.le_add_right _ _

theorem Effect.cap_eq {i : Instr} {s t : State} (h : Effect s i t) : t.cap = s.cap := by
  cases h <;> rfl

/-- An operation that has room for the byte it enqueues does not overflow. -/
theorem State.overflows_eq_false {s : State} {i : Instr} (h : s.count + (enqueued [i]).length ≤ s.cap - 1) :
    s.overflows i = false := by
  cases i with
  | enqb b =>
    have hlt : s.count < s.cap - 1 := h
    exact beq_false_of_ne hlt.ne
  | _ => rfl

/-- Every step keeps room for the bytes still to come: an ENQB lowers both by one, and no other lowers the room. -/
theorem noOverflow_of_room {is : List Instr} {s : State} (hs : s.BufInv)
    (hroom : s.count + (enqueued is).length ≤ s.cap - 1) : NoOverflow is s := by
  induction is generalizing s with
  | nil => trivial
  | cons i is ih =>
    rw [enqueued_cons, List.length_append, ← Nat.add_assoc] at hroom
    obtain ⟨t, ht⟩ := exec_total i s
    have heffect : Effect s i t := exec_effect ht
    have hfirst : s.overflows i = false := State.overflows_eq_false (Nat.le_of_add_right_le hroom)
    refine (Along_cons ht).2 ⟨hfirst, ih (heffect.bufInv hs) ?_⟩
    calc t.count + (enqueued is).length
        ≤ s.count + (enqueued [i]).length + (enqueued is).length :=
          Nat.add_le_add_right (heffect.count_le hs hfirst) _
      _ ≤ t.cap - 1 := heffect.cap_eq.symm ▸ hroom

/-- Settles O39: the induction is over the run, with the room left at each state. -/
theorem recordWithRoomNeverOverflows : Obligations.RecordWithRoomNeverOverflows := fun _ _ hs =>
  noOverflow_of_room hs.bufInv

end Sys2Proof.Machine
end

section
/-! PROOFS. A step where no agent presents a word, which is the model's choice (log entry 7). -/

namespace Sys2Proof.Machine

/-- Settles O14: it is the step's equation for an empty list of words to come. -/
theorem stepWithNothingPresented : Obligations.StepWithNothingPresented :=
  fun _ hwf ht => step_of_trace_nil hwf ht

end Sys2Proof.Machine
end
